-- ==== Sys2Proof/Word.lean ====
section
/-! DEFINITION. The words of the LZW codec core: bytes, codewords, byte strings, bit sequences (spec/00_scope.md R12). -/

namespace Sys2Proof

/-- A raw byte, or the mode tag (R12, R61). -/
abbrev Byte := BitVec 8

/-- A codeword zero-extended to 16 bits: an unsigned integer in [0, 2^16) (R6 `CODEWORD_SPACE`, R63). -/
abbrev Codeword := BitVec 16

/-- A byte string; `++` puts its left operand first (R12). -/
abbrev Str := List Byte

/-- A bit string in transmission order, the first-transmitted bit at the head (R12, R42). -/
abbrev Bits := List Bool

end Sys2Proof
end

