-- ==== Sys2Proof/Syntax.lean ====
section
/-! DEFINITION. The instructions: one constructor per row of spec/opcode_table.json (spec/30_encoding.md R71, R74),
and the names its operands and the state are made of. -/

namespace Sys2Proof

/-- DIR, and the `side` operand of the WidthController and ResetPolicy operations (R18, spec/41_width_controller.md). -/
inductive Dir where
  | enc
  | dec
  deriving DecidableEq, Repr, Inhabited

/-- MODE: the ResetPolicy variant. The reserved value 3 is never held, so it is no constructor (R19). -/
inductive Mode where
  | none
  | periodic
  | monitored
  deriving DecidableEq, Repr, Inhabited

/-- ST: the state of the state machine (R20). -/
inductive St where
  | halted
  | awaitFirst
  | running
  deriving DecidableEq, Repr, Inhabited

/-- The encoded instructions are the tag symbols, the codeword classes and the host commands; the operations have no
bit encoding, because the core executes no program (R71). A codeword class carries the codeword it was read from. -/
inductive Instr where
  /-- TAG.NONE, the tag byte 0x6E (R62, R163). -/
  | tagNone
  /-- TAG.PERIODIC, the tag byte 0x72 (R62, R163). -/
  | tagPeriodic
  /-- TAG.MONITORED, the tag byte 0x6D (R62, R163). -/
  | tagMonitored
  /-- TAG.INVALID, any of the other 253 tag bytes (R69, R174). -/
  | tagInvalid (tag : Byte)
  /-- CW.LIT, a codeword below 256: the byte `c[7:0]` (R64, R65). -/
  | cwLit (b : Byte)
  /-- CW.EOF, the codeword 256 (R65, R146). -/
  | cwEof
  /-- CW.REF, an assigned learned codeword (R65). -/
  | cwRef (c : Codeword)
  /-- CW.KWKWK, the one-ahead codeword `c == CC` (R65). -/
  | cwKwkwk (c : Codeword)
  /-- CW.OOR, a codeword out of range (R65, R176). -/
  | cwOor (c : Codeword)
  /-- START.COMPRESS.NONE, CMD 0b000 (R70, R166). -/
  | startCompressNone
  /-- START.COMPRESS.PERIODIC, CMD 0b001 (R70, R166). -/
  | startCompressPeriodic
  /-- START.COMPRESS.MONITORED, CMD 0b010 (R70, R166). -/
  | startCompressMonitored
  /-- START.RESERVED, CMD 0b011 (R70). -/
  | startReserved
  /-- START.EXPAND, CMD 0b1xx with its two ignored mode bits (R70, R167). -/
  | startExpand (ignored : BitVec 2)
  /-- STATUS, the host's read of the result (R168). -/
  | status
  /-- DICT.init (R81). -/
  | dictInit
  /-- DICT.longestPrefixOf(i) (R82). -/
  | dictLongestPrefixOf (i : Nat)
  /-- DICT.get(s) (R83). -/
  | dictGet (s : Str)
  /-- DICT.insert(s, b) (R84). -/
  | dictInsert (s : Str) (b : Byte)
  /-- TAB.init (R87). -/
  | tabInit
  /-- TAB.lookup(c) (R88). -/
  | tabLookup (c : Codeword)
  /-- TAB.append(s) (R90). -/
  | tabAppend (s : Str)
  /-- WC.init (R96). -/
  | wcInit
  /-- WC.isFull(side) (R97). -/
  | wcIsFull (side : Dir)
  /-- WC.grow (R98). -/
  | wcGrow
  /-- WC.shouldGrow(side) (R100). -/
  | wcShouldGrow (side : Dir)
  /-- WC.growthCheck(side) (R101). -/
  | wcGrowthCheck (side : Dir)
  /-- RP.check(side) (R107). -/
  | rpCheck (side : Dir)
  /-- RP.reset(side) (R108). -/
  | rpReset (side : Dir)
  /-- RP.check.none (R109). -/
  | rpCheckNone
  /-- RP.check.periodic(side) (R110). -/
  | rpCheckPeriodic (side : Dir)
  /-- RP.check.monitored(side) (R111). -/
  | rpCheckMonitored (side : Dir)
  /-- RT.update(t) (R114). -/
  | rtUpdate (t : Nat)
  /-- RT.capture (R115). -/
  | rtCapture
  /-- RT.degraded (R116). -/
  | rtDegraded
  /-- ENC.start(mode) (R126). -/
  | encStart (mode : Mode)
  /-- ENC.step (R128). -/
  | encStep
  /-- ENC.eof (R131). -/
  | encEof
  /-- DEC.start (R141). -/
  | decStart
  /-- DEC.first (R145). -/
  | decFirst
  /-- DEC.next (R147). -/
  | decNext
  /-- TAG.write(mode) (R162). -/
  | tagWrite (mode : Mode)
  /-- TAG.read (R163). -/
  | tagRead
  /-- BitWrite(v, n) (R42). -/
  | bitWrite (v : Codeword) (n : Nat)
  /-- BitRead(n) (R43). -/
  | bitRead (n : Nat)
  /-- BitClose() (R44). -/
  | bitClose
  /-- InByte(i) (R48). -/
  | inByte (i : Nat)
  /-- OutBytes(s) (R49). -/
  | outBytes (s : Str)
  deriving DecidableEq, Repr

end Sys2Proof
end

