-- ==== Sys2Proof/WellFormed.lean ====
section
/-! DEFINITION. Which instructions are well formed: the conditions the spec puts on an operand by itself, without
reference to the state. -/

namespace Sys2Proof

/-- The operand conditions of the table and of the operations' contracts: an illegal tag is none of the three values
(R69); a learned codeword, and one out of range, is at least 257 (R65); keys and output strings are nonempty (R31, R49);
a table entry has at least two bytes (R90); codeword 256 is never looked up (R88); a channel access has 1 to 16 bits and
its value fits them (R42, R43); a symbol has at least one byte (R114). -/
def Instr.WellFormed : Instr → Bool
  | .tagNone => true
  | .tagPeriodic => true
  | .tagMonitored => true
  | .tagInvalid tag => tag != 0x6E#8 && tag != 0x72#8 && tag != 0x6D#8
  | .cwLit _ => true
  | .cwEof => true
  | .cwRef c => decide (257 ≤ c.toNat)
  | .cwKwkwk c => decide (257 ≤ c.toNat)
  | .cwOor c => decide (257 ≤ c.toNat)
  | .startCompressNone => true
  | .startCompressPeriodic => true
  | .startCompressMonitored => true
  | .startReserved => true
  | .startExpand _ => true
  | .status => true
  | .dictInit => true
  | .dictLongestPrefixOf _ => true
  | .dictGet s => decide (1 ≤ s.length)
  | .dictInsert s _ => decide (1 ≤ s.length)
  | .tabInit => true
  | .tabLookup c => c != 256#16
  | .tabAppend s => decide (2 ≤ s.length)
  | .wcInit => true
  | .wcIsFull _ => true
  | .wcGrow => true
  | .wcShouldGrow _ => true
  | .wcGrowthCheck _ => true
  | .rpCheck _ => true
  | .rpReset _ => true
  | .rpCheckNone => true
  | .rpCheckPeriodic _ => true
  | .rpCheckMonitored _ => true
  | .rtUpdate t => decide (1 ≤ t)
  | .rtCapture => true
  | .rtDegraded => true
  | .encStart _ => true
  | .encStep => true
  | .encEof => true
  | .decStart => true
  | .decFirst => true
  | .decNext => true
  | .tagWrite _ => true
  | .tagRead => true
  | .bitWrite v n => decide (1 ≤ n) && decide (n ≤ 16) && decide (v.toNat < 2 ^ n)
  | .bitRead n => decide (1 ≤ n) && decide (n ≤ 16)
  | .bitClose => true
  | .inByte _ => true
  | .outBytes s => decide (1 ≤ s.length)

end Sys2Proof
end

