-- ==== Sys2Proof/Decode.lean ====
section
/-! DEFINITION. The decoder of tags, codewords and host commands, and after it the encoder, both written from
spec/30_encoding.md; the order of bits in a symbol and in a byte (spec/20_memory.md R42, R43, R45). -/

namespace Sys2Proof

/-! Bits and numbers. -/

/-- The `n` low bits of `v`, most significant first (R42: `v[n-1], v[n-2], ..., v[0]`). -/
def bitsOfNat : Nat → Nat → Bits
  | 0, _ => []
  | n + 1, v => v.testBit n :: bitsOfNat n v

/-- The unsigned integer whose most significant bit is the first one (R43). -/
def natOfBits : Bits → Nat
  | [] => 0
  | b :: bs => b.toNat * 2 ^ bs.length + natOfBits bs

/-- The first `n` bits as an unsigned integer, with the rest; nothing if fewer are left (R43). -/
def readBits (n : Nat) (bits : Bits) : Option (Nat × Bits) :=
  if n ≤ bits.length then some (natOfBits (bits.take n), bits.drop n) else none

/-- The bit sequence of a byte stream: position `p` is bit `7 - (p mod 8)` of byte `p div 8` (R45).
UNVERIFIED for the original software (decision D3, notes/assumptions/17.md). -/
def unpackBytes (bytes : List Byte) : Bits :=
  bytes.flatMap fun b => bitsOfNat 8 b.toNat

/-- The byte stream of a bit sequence, a partial last byte completed with zero bits (R44, R45). -/
def packBits : Bits → List Byte
  | b7 :: b6 :: b5 :: b4 :: b3 :: b2 :: b1 :: b0 :: rest =>
    BitVec.ofNat 8 (natOfBits [b7, b6, b5, b4, b3, b2, b1, b0]) :: packBits rest
  | [] => []
  | short => [BitVec.ofNat 8 (natOfBits ((short ++ List.replicate 7 false).take 8))]

/-! The numbers of the control and status registers (decision D9), as STATUS and CMD show them. -/

/-- DIR: ENC = 0, DEC = 1 (R18). -/
def Dir.code : Dir → BitVec 1
  | .enc => 0
  | .dec => 1

/-- MODE: NONE = 0, PERIODIC = 1, MONITORED = 2 (R19). -/
def Mode.code : Mode → BitVec 2
  | .none => 0
  | .periodic => 1
  | .monitored => 2

/-- ST: Halted = 0, AwaitFirst = 1, Running = 2 (R20). -/
def St.code : St → BitVec 2
  | .halted => 0
  | .awaitFirst => 1
  | .running => 2

/-! Tags. -/

/-- TAG_NONE, TAG_PERIODIC, TAG_MONITORED (R62). UNVERIFIED for the original software (decision D1,
notes/assumptions/17.md). -/
def tagOf : Mode → Byte
  | .none => 0x6E
  | .periodic => 0x72
  | .monitored => 0x6D

/-- The variant a tag byte selects, if it is one of the three values (R163). -/
def modeOfTag (tag : Byte) : Option Mode :=
  if tag = 0x6E#8 then some .none
  else if tag = 0x72#8 then some .periodic
  else if tag = 0x6D#8 then some .monitored
  else none

/-- The tag rows of the opcode table: every byte is one of them (R61, R69). -/
def decodeTag (tag : Byte) : Instr :=
  match modeOfTag tag with
  | some .none => .tagNone
  | some .periodic => .tagPeriodic
  | some .monitored => .tagMonitored
  | none => .tagInvalid tag

/-! Codewords. -/

/-- The class of a codeword by the Decoder's state at the moment of the read; the EOF test comes first (R65, R144).
A halted Decoder reads no codeword. -/
def classify (st : St) (cc : Nat) (c : Codeword) : Option Instr :=
  match st with
  | .halted => none
  | .awaitFirst =>
    if c.toNat = 256 then some .cwEof
    else if c.toNat < 256 then some (.cwLit (c.setWidth 8))
    else some (.cwOor c)
  | .running =>
    if c.toNat = 256 then some .cwEof
    else if c.toNat < 256 then some (.cwLit (c.setWidth 8))
    else if c.toNat < cc then some (.cwRef c)
    else if c.toNat = cc then some (.cwKwkwk c)
    else some (.cwOor c)

/-! Host commands. -/

/-- The CMD rows of the opcode table: every 3-bit word is one of them; bit 2 is the direction, bits 1:0 the mode,
ignored by expand (R70). -/
def decodeCmd (cmd : BitVec 3) : Instr :=
  if cmd.getLsbD 2 then .startExpand (cmd.setWidth 2)
  else if cmd = 0#3 then .startCompressNone
  else if cmd = 1#3 then .startCompressPeriodic
  else if cmd = 2#3 then .startCompressMonitored
  else .startReserved

/-! The whole decoder. -/

/-- What the reader awaits next, which is how it knows the symbol's length and meaning (R65, R67): a tag, a host
command, or a codeword of width `w` in state `st` with the count `cc`. -/
inductive Awaited where
  | tag
  | command
  | codeword (w : Nat) (st : St) (cc : Nat)
  deriving DecidableEq, Repr

/-- Why the decoder gives no instruction. -/
inductive Reject where
  /-- Fewer bits are left than the symbol has (R43 `Exhausted`). -/
  | exhausted (wanted : Nat)
  /-- No codeword is read with ST = Halted (spec/44_decoder.md R142). -/
  | noCodewordAwaited
  deriving DecidableEq, Repr

/-- Reads one symbol and returns it with the bits after it. -/
def decodeSymbol (a : Awaited) (bits : Bits) : Except Reject (Instr × Bits) :=
  match a with
  | .tag =>
    match readBits 8 bits with
    | some (v, rest) => .ok (decodeTag (BitVec.ofNat 8 v), rest)
    | none => .error (.exhausted 8)
  | .command =>
    match readBits 3 bits with
    | some (v, rest) => .ok (decodeCmd (BitVec.ofNat 3 v), rest)
    | none => .error (.exhausted 3)
  | .codeword w st cc =>
    match readBits w bits with
    | some (v, rest) =>
      match classify st cc (BitVec.ofNat 16 v) with
      | some i => .ok (i, rest)
      | none => .error .noCodewordAwaited
    | none => .error (.exhausted w)

/-! The encoder. -/

/-- A symbol of the wire or a host command word: the three encoded formats T, C and CMD (R61, R63, R70). -/
inductive Symbol where
  | tag (t : Byte)
  | codeword (c : Codeword)
  | command (cmd : BitVec 3)
  deriving DecidableEq, Repr

/-- The symbol of an instruction; nothing for a row that has no bit encoding: STATUS and the operations (R70, R71). -/
def Instr.symbol : Instr → Option Symbol
  | .tagNone => some (.tag 0x6E)
  | .tagPeriodic => some (.tag 0x72)
  | .tagMonitored => some (.tag 0x6D)
  | .tagInvalid t => some (.tag t)
  | .cwLit b => some (.codeword (b.setWidth 16))
  | .cwEof => some (.codeword 256)
  | .cwRef c => some (.codeword c)
  | .cwKwkwk c => some (.codeword c)
  | .cwOor c => some (.codeword c)
  | .startCompressNone => some (.command 0b000)
  | .startCompressPeriodic => some (.command 0b001)
  | .startCompressMonitored => some (.command 0b010)
  | .startReserved => some (.command 0b011)
  | .startExpand m => some (.command (1#1 ++ m))
  | .status => none
  | .dictInit => none
  | .dictLongestPrefixOf _ => none
  | .dictGet _ => none
  | .dictInsert _ _ => none
  | .tabInit => none
  | .tabLookup _ => none
  | .tabAppend _ => none
  | .wcInit => none
  | .wcIsFull _ => none
  | .wcGrow => none
  | .wcShouldGrow _ => none
  | .wcGrowthCheck _ => none
  | .rpCheck _ => none
  | .rpReset _ => none
  | .rpCheckNone => none
  | .rpCheckPeriodic _ => none
  | .rpCheckMonitored _ => none
  | .rtUpdate _ => none
  | .rtCapture => none
  | .rtDegraded => none
  | .encStart _ => none
  | .encStep => none
  | .encEof => none
  | .decStart => none
  | .decFirst => none
  | .decNext => none
  | .tagWrite _ => none
  | .tagRead => none
  | .bitWrite _ _ => none
  | .bitRead _ => none
  | .bitClose => none
  | .inByte _ => none
  | .outBytes _ => none

/-- The bits of an instruction, a codeword taking `w` of them (R61, R63, R70). -/
def encode (w : Nat) (i : Instr) : Option Bits :=
  match i.symbol with
  | some (.tag t) => some (bitsOfNat 8 t.toNat)
  | some (.codeword c) => some (bitsOfNat w c.toNat)
  | some (.command cmd) => some (bitsOfNat 3 cmd.toNat)
  | none => none

/-- Whether the instruction's symbol fits a codeword width `w` (R63, R64); a tag or a command does not depend on it. -/
def Instr.fits (w : Nat) (i : Instr) : Bool :=
  match i.symbol with
  | some (.codeword c) => decide (c.toNat < 2 ^ w)
  | some (.tag _) => true
  | some (.command _) => true
  | none => true

/-- What a reader with codeword width `w`, state `st` and count `cc` awaits when it meets the instruction's symbol. -/
def awaitedFor (w : Nat) (st : St) (cc : Nat) (i : Instr) : Option Awaited :=
  match i.symbol with
  | some (.tag _) => some .tag
  | some (.codeword _) => some (.codeword w st cc)
  | some (.command _) => some .command
  | none => none

/-- The condition of R65 on state and count under which a codeword is of the instruction's class; the other instructions
put no condition on them. -/
def Instr.inClass (st : St) (cc : Nat) (i : Instr) : Bool :=
  match i with
  | .cwLit _ => st != .halted
  | .cwEof => st != .halted
  | .cwRef c => st == .running && decide (c.toNat < cc)
  | .cwKwkwk c => st == .running && decide (c.toNat = cc)
  | .cwOor c => st == .awaitFirst || (st == .running && decide (cc < c.toNat))
  | _ => true

/-! The host's question about one row of the table. -/

/-- What the table numbers as one word, given to the decoder as the hardware transmits it: up to 8 bits hold a 3-bit
CMD word (values below 8) or a tag byte, 9 to 16 bits a codeword zero-extended to 16 bits (R74), which is read here as
a Decoder in AwaitFirst reads it, CC = 257 (DESIGN CHOICE, notes/assumptions/14.md). -/
def decodeTableWord (nbits w : Nat) : Option Instr :=
  if nbits = 0 then none
  else if nbits ≤ 8 then
    if w % 2 ^ nbits < 8 then
      match decodeSymbol .command (bitsOfNat 3 w) with
      | .ok (i, _) => some i
      | .error _ => none
    else
      match decodeSymbol .tag (bitsOfNat 8 w) with
      | .ok (i, _) => some i
      | .error _ => none
  else if nbits ≤ 16 then
    match decodeSymbol (.codeword 16 .awaitFirst 257) (bitsOfNat 16 w) with
    | .ok (i, _) => some i
    | .error _ => none
  else none

end Sys2Proof
end

