-- ==== Sys2Proof/Config.lean ====
section
/-! DEFINITION. The values the spec leaves unspecified while the machine goes on (spec/93_implementation_defined.md U7).
The constants of spec/00_scope.md R6 stand as the rules' own numerals where the rules use them, and the tag values in
Sys2Proof/Decode.lean. -/

namespace Sys2Proof

/-- The registers that DEC.start loads after the tag read, as one record: after a failed DEC.start all of them are
unspecified (spec/60_exceptions.md R179, spec/44_decoder.md R141). `tab` lists index and value pairs in any order. -/
structure StartRegs where
  mode  : Mode
  w     : Nat
  l     : Nat
  cc    : Nat
  tab   : List (Nat × Str)
  prior : Option Str
  u     : Nat
  c     : Nat
  bu    : Nat
  bc    : Nat
  mon   : Bool
  deriving DecidableEq, Repr, Inhabited

/-- A free value: what those registers hold after the failed DEC.start number `k`. It has no body, so nothing can be
proved of it (U7 `any value`; notes/assumptions/3.md). Safe. -/
opaque Config.unspecified : Nat → StartRegs

end Sys2Proof
end

