-- ==== Sys2Proof/Machine/State.lean ====
section
/-! DEFINITION. The state of the machine (spec/10_state.md R17) as plain data, its value after power-on (R39), and the
names of its faults and refusals. -/

namespace Sys2Proof.Machine

/-- ERR: why the run halted (R21). -/
inductive Err where
  | none
  | malformedModeTag
  | truncatedStream
  | codewordOutOfRange
  deriving DecidableEq, Repr

/-- A host transaction that the next step takes: START with its 3-bit CMD word, or STATUS (R70, R168). The model's own
(notes/assumptions/4.md). -/
inductive Request where
  | start (cmd : BitVec 3)
  | status
  deriving DecidableEq, Repr

/-- The answer of an operation that returns a value. The model's own (notes/assumptions/7.md). -/
inductive Result where
  /-- no operation has answered yet -/
  | nothing
  /-- WC.isFull, WC.shouldGrow, RT.degraded -/
  | bool (b : Bool)
  /-- DICT.longestPrefixOf: the pair (t, s) -/
  | matched (t : Nat) (s : Str)
  /-- DICT.get, BitRead -/
  | codeword (c : Codeword)
  /-- BitRead with too few bits left -/
  | exhausted
  /-- TAB.lookup -/
  | string (s : Str)
  /-- InByte -/
  | byte (b : Byte)
  /-- STATUS: ST, ERR and ERRINFO by their numbers -/
  | status (st : BitVec 2) (err : BitVec 2) (errinfo : BitVec 16)
  deriving DecidableEq, Repr

/-- The state of one instance and of its channels (R17). `request`, `result` and `freeCount` are the model's own. -/
structure State where
  /-- DIR (R18) -/
  dir       : Dir
  /-- MODE (R19) -/
  mode      : Mode
  /-- ST (R20) -/
  st        : St
  /-- ERR (R21) -/
  err       : Err
  /-- ERRINFO (R22) -/
  errinfo   : BitVec 16
  /-- W, the current codeword width (R23) -/
  w         : Nat
  /-- L, the capacity at that width (R24) -/
  l         : Nat
  /-- CC, the count of assigned codewords (R25) -/
  cc        : Nat
  /-- IN, the Encoder's input buffer; N is its length (R27) -/
  input     : List Byte
  /-- CUR, the input cursor (R27) -/
  cur       : Nat
  /-- DICT, the PrefixDictionary, by rising key (R31) -/
  dict      : List (Str × Codeword)
  /-- TAB, the CodeTable, by rising index; an unlisted index has no value (R32) -/
  tab       : List (Nat × Str)
  /-- PRIOR, the previously decoded value, or no value (R26) -/
  prior     : Option Str
  /-- U, raw bits of the epoch (R28) -/
  u         : Nat
  /-- C, codeword bits of the epoch (R28) -/
  c         : Nat
  /-- BU, the baseline's raw bits (R29) -/
  bu        : Nat
  /-- BC, the baseline's codeword bits (R29) -/
  bc        : Nat
  /-- MON, the monitoring flag (R30) -/
  mon       : Bool
  /-- OUTBITS, the bits written so far (R17, R42) -/
  outbits   : Bits
  /-- INBITS, the bits the host supplies (R17, R43) -/
  inbits    : Bits
  /-- RP, the read position in INBITS (R17, R43) -/
  rp        : Nat
  /-- OUTB, the bytes output so far (R17, R49) -/
  outb      : List Byte
  /-- the host transaction waiting to be taken -/
  request   : Option Request
  /-- the answer of the last operation that returned a value -/
  result    : Result
  /-- how many free values have been drawn -/
  freeCount : Nat
  deriving DecidableEq, Repr

/-- Why the machine has no step although nothing was refused: a stuck state. -/
inductive Fault where
  /-- Raised by a step with ST = Halted and no host command waiting: "A halted instance has no step; only a new START
  changes it" (spec/00_scope.md R10). Safe. -/
  | haltedNoRequest
  /-- Raised by a step of an instance in progress with no enabled operation: an Encoder in AwaitFirst or with CUR > N,
  which no run reaches (spec/43_encoder.md R127). Safe. -/
  | noEnabledOperation
  deriving DecidableEq, Repr

/-- Why an instruction has no meaning where it was used: the refusals of spec/00_scope.md R10. All are safe. -/
inductive Refusal where
  /-- Raised by exec's arm of an instruction that has no meaning yet. Safe. -/
  | notModelled (mnemonic : String)
  /-- Raised by START.RESERVED: CMD 0b011 is refused (R70, U3). Safe. -/
  | reservedMode
  /-- Raised by every START while ST is not Halted (R169, U10). Safe. -/
  | startWhileRunning
  /-- Raised by an operation, a tag or a codeword of the state machines in a state whose ST, DIR or CUR does not enable
  it (R127, R142, R161). Safe. -/
  | notEnabled
  /-- Raised by a codeword or tag instruction whose own class condition is false (R65, R69). Safe. -/
  | notOfClass
  /-- Raised by an operation on an operand outside its contract: an index past the input, an empty string, a channel
  access of 0 or more than 16 bits (R42, R43, R48, R49, R82, R90, R114). Safe. -/
  | operandOutsideContract
  /-- Raised where a TAB entry, a DICT key or PRIOR that has no value would be read, or the value read is empty
  (U8 `refuse`; R83, R84, R88). Safe. -/
  | noValue
  /-- Raised by DICT.insert and TAB.append with CC = L or beyond, and by DICT.insert of a key already there (R84, R90).
  Safe. -/
  | insertOutsideContract
  deriving DecidableEq, Repr

/-- The state after hardware power-on (R39): ST = Halted, ERR = NONE, ERRINFO = 0. Every other register is unspecified
there; its value here is a DESIGN CHOICE (notes/assumptions/2.md): the start values of R40 for W, L, CC and the tracker,
zero, empty or no value for the rest. -/
def State.reset : State where
  dir := .enc
  mode := .none
  st := .halted
  err := .none
  errinfo := 0
  w := 9
  l := 512
  cc := 257
  input := []
  cur := 0
  dict := []
  tab := []
  prior := none
  u := 0
  c := 0
  bu := 0
  bc := 0
  mon := false
  outbits := []
  inbits := []
  rp := 0
  outb := []
  request := none
  result := .nothing
  freeCount := 0

end Sys2Proof.Machine
end

