-- ==== Sys2Proof/Machine/Ops.lean ====
section
/-! DEFINITION. The named operations over the registers, the two entry stores and the channels: spec/20_memory.md,
spec/40_dictionary_and_table.md, and raising an error (spec/60_exceptions.md R179). -/

namespace Sys2Proof.Machine

/-- What every meaning answers. -/
abbrev Answer := Host.Outcome State Fault Refusal

/-! Key and value lists in canonical form: keys strictly rising (notes/assumptions/16.md). -/

/-- The value of key `k`; none if it is not listed. -/
def assocGet {κ α : Type} [DecidableEq κ] : List (κ × α) → κ → Option α
  | [], _ => none
  | (k', v) :: rest, k => if k = k' then some v else assocGet rest k

/-- Writes `v` at key `k`, keeping the keys in order. -/
def assocSet {κ α : Type} [DecidableEq κ] (lt : κ → κ → Bool) : List (κ × α) → κ → α → List (κ × α)
  | [], k, v => [(k, v)]
  | (k', v') :: rest, k, v =>
    if k = k' then (k, v) :: rest
    else if lt k k' then (k, v) :: (k', v') :: rest
    else (k', v') :: assocSet lt rest k v

/-- The canonical form: every key is below every later key. -/
abbrev assocWf {κ α : Type} (lt : κ → κ → Bool) (m : List (κ × α)) : Prop :=
  m.Pairwise fun x y => lt x.1 y.1 = true

/-- The order of DICT's keys: byte strings compared byte for byte, a prefix first. -/
def strLt : Str → Str → Bool
  | _, [] => false
  | [], _ :: _ => true
  | a :: as, b :: bs => if a = b then strLt as bs else decide (a.toNat < b.toNat)

/-- The order of TAB's indices. -/
def idxLt (i j : Nat) : Bool := decide (i < j)

/-! PrefixDictionary (R31, R81 to R86). -/

/-- The 256 byte values in order. -/
def allBytes : List Byte := (List.range 256).map (BitVec.ofNat 8)

/-- `DICT[s]` (R13). -/
def dictGet (s : State) (key : Str) : Option Codeword := assocGet s.dict key

/-- DICT.init: exactly the keys `<b>`, with `DICT[<b>] = b` (R81). CC is the caller's. -/
def dictInit (s : State) : State :=
  { s with dict := allBytes.map fun b => ([b], b.setWidth 16) }

/-- DICT.insert: `DICT[key ++ <b>] <- CC; CC <- CC + 1` (R84). -/
def dictInsert (key : Str) (b : Byte) (s : State) : State :=
  { s with dict := assocSet strLt s.dict (key ++ [b]) (BitVec.ofNat 16 s.cc), cc := s.cc + 1 }

/-! CodeTable (R32, R87 to R91). -/

/-- `TAB[i]` (R13, R32). -/
def tabGet (s : State) (i : Nat) : Option Str := assocGet s.tab i

/-- TAB.init: `TAB[b] = <b>` for the 256 bytes and no value elsewhere (R87). CC is the caller's. -/
def tabInit (s : State) : State :=
  { s with tab := allBytes.map fun b => (b.toNat, [b]) }

/-- TAB.append: `TAB[CC] <- value; CC <- CC + 1` (R90). -/
def tabAppend (value : Str) (s : State) : State :=
  { s with tab := assocSet idxLt s.tab s.cc value, cc := s.cc + 1 }

/-! The bit channel and the byte buffers (R41 to R49). -/

/-- N, the length of the input (R27). -/
def inputLength (s : State) : Nat := s.input.length

/-- InByte(i) (R48); nothing past the end. -/
def inByte (i : Nat) (s : State) : Option Byte := s.input[i]?

/-- BitWrite(v, n): appends the low `n` bits of `v`, most significant first (R13, R42). -/
def bitWrite (v : Codeword) (n : Nat) (s : State) : State :=
  { s with outbits := s.outbits ++ bitsOfNat n v.toNat }

/-- BitClose(): appends `(8 - |OUTBITS| mod 8) mod 8` zero bits (R44). -/
def bitClose (s : State) : State :=
  { s with outbits := s.outbits ++ List.replicate ((8 - s.outbits.length % 8) % 8) false }

/-- `RP <- RP + n` (R43). -/
def advance (n : Nat) (s : State) : State := { s with rp := s.rp + n }

/-- BitRead(n): the next `n` bits of INBITS and the state with RP past them; nothing, and RP unchanged, if fewer are
left (R43 `Exhausted`). -/
def bitRead (n : Nat) (s : State) : Option (Codeword × State) :=
  match readBits n (s.inbits.drop s.rp) with
  | some (v, _) => some (BitVec.ofNat 16 v, advance n s)
  | none => none

/-- OutBytes(bytes): appends to OUTB in string order (R49). -/
def outBytes (bytes : Str) (s : State) : State :=
  { s with outb := s.outb ++ bytes }

/-! Errors (R173 to R179). -/

/-- ERR: NONE = 0, MalformedModeTag = 1, TruncatedStream = 2, CodewordOutOfRange = 3 (R21). -/
def Err.code : Err → BitVec 2
  | .none => 0
  | .malformedModeTag => 1
  | .truncatedStream => 2
  | .codewordOutOfRange => 3

/-- `raise e(info)`, the entry of every exception: ERR, ERRINFO and ST are written, no other register (R179). There is
no return from it: only a START leaves the error (R180). -/
def raise (e : Err) (info : BitVec 16) (s : State) : State :=
  { s with err := e, errinfo := info, st := .halted }

/-- Draws the unspecified values of the registers that a failed DEC.start leaves without one (R179, U7;
notes/assumptions/3.md). TAB is brought into canonical form and kept to its indices 0 .. 65535. -/
def unspecifyStart (s : State) : State :=
  let f := Config.unspecified s.freeCount
  { s with
    mode := f.mode, w := f.w, l := f.l, cc := f.cc
    tab := (f.tab.filter fun e => decide (e.1 < 65536)).foldl (fun m e => assocSet idxLt m e.1 e.2) []
    prior := f.prior, u := f.u, c := f.c, bu := f.bu, bc := f.bc, mon := f.mon
    freeCount := s.freeCount + 1 }

/-- An error of DEC.start: the raise, and the registers it would have loaded after the tag unspecified (R141, R179). -/
def raiseAtStart (e : Err) (info : BitVec 16) (s : State) : State :=
  raise e info (unspecifyStart s)

/-- The answer of an operation that returns a value. -/
def answer (r : Result) (s : State) : State :=
  { s with result := r }

end Sys2Proof.Machine
end

