-- ==== Sys2Proof/Machine/Flags.lean ====
section
/-! DEFINITION. Every test the rules make on the registers, and the one flag MON's test: fullness, growth, degradation
(spec/41_width_controller.md R97, R100; spec/42_reset_policy.md R116). There is no other flag or condition code (R30). -/

namespace Sys2Proof.Machine

/-- "Has the encoder's table just become full?": `CC == L`, on the Decoder one early, `CC == L - 1` (R97, form (b)),
computed as `CC + 1 == L` (R103). -/
def isFull (side : Dir) (s : State) : Bool :=
  match side with
  | .enc => decide (s.cc = s.l)
  | .dec => decide (s.cc + 1 = s.l)

/-- "May an entry be added now?": `CC < L` on both sides (R97, form (a)). -/
def notFullForInsert (s : State) : Bool := decide (s.cc < s.l)

/-- The growth trigger: full, one early on the Decoder, and `W < 16` (R100). -/
def shouldGrow (side : Dir) (s : State) : Bool := isFull side s && decide (s.w < 16)

/-- Full at max width, one early on the Decoder: the trigger of the periodic reset and of the capture (R110, R111). -/
def fullAtMaxWidth (side : Dir) (s : State) : Bool := isFull side s && decide (s.w = 16)

/-- `baseline / currentRatio >= 1.10` cleared of denominators: `10 * BU * C >= 11 * BC * U` (R116). -/
def degraded (s : State) : Bool := decide (11 * s.bc * s.u ≤ 10 * s.bu * s.c)

end Sys2Proof.Machine
end

