-- ==== Sys2Proof/Machine/Width.lean ====
section
/-! DEFINITION. The WidthController (spec/41_width_controller.md): its shared operations and the meanings of its
rows, which run by themselves act in any DIR and ST (DESIGN CHOICE, notes/assumptions/23.md). -/

namespace Sys2Proof.Machine

/-- WC.init: `W <- 9; L <- 512` (R96). CC is the caller's. -/
def wcInit (s : State) : State := { s with w := 9, l := 512 }

/-- WC.grow: `W += 1, L *= 2`, no-op at W = 16 (R98). -/
def wcGrow (s : State) : State := if s.w < 16 then { s with w := s.w + 1, l := s.l * 2 } else s

/-- WC.growthCheck: grow if the trigger holds, at most once a step (R101). -/
def growthCheck (side : Dir) (s : State) : State := if shouldGrow side s then wcGrow s else s

/-- WC.init (R96). -/
def execWcInit (s : State) : Answer := .next (wcInit s)

/-- WC.isFull(side) (R97). -/
def execWcIsFull (side : Dir) (s : State) : Answer := .next (answer (.bool (isFull side s)) s)

/-- WC.grow (R98). -/
def execWcGrow (s : State) : Answer := .next (wcGrow s)

/-- WC.shouldGrow(side) (R100). -/
def execWcShouldGrow (side : Dir) (s : State) : Answer := .next (answer (.bool (shouldGrow side s)) s)

/-- WC.growthCheck(side) (R101). -/
def execWcGrowthCheck (side : Dir) (s : State) : Answer := .next (growthCheck side s)

end Sys2Proof.Machine
end

