-- ==== Sys2Proof/Machine/Policy.lean ====
section
/-! DEFINITION. The ResetPolicy in its three variants and the ratio tracker (spec/42_reset_policy.md): the shared
operations and the meanings of the rows, which run by themselves act in any DIR and ST (DESIGN CHOICE,
notes/assumptions/23.md). -/

namespace Sys2Proof.Machine

/-- The tracker zeroed: U, C, BU, BC and MON (R108, R126, R141). -/
def clearTracker (s : State) : State := { s with u := 0, c := 0, bu := 0, bc := 0, mon := false }

/-- RT.update(t): in mode MONITORED, `U += 8t` and `C += W`; nothing in the other modes (R114). -/
def rtUpdate (t : Nat) (s : State) : State :=
  match s.mode with
  | .none => s
  | .periodic => s
  | .monitored => { s with u := s.u + 8 * t, c := s.c + s.w }

/-- RT.capture: the baseline is the pair (U, C); MON is set (R115). -/
def rtCapture (s : State) : State := { s with bu := s.u, bc := s.c, mon := true }

/-- The registers that START and a policy reset load alike, the entry store apart: W, L, CC and the tracker (R40). -/
def restartWidth (s : State) : State := clearTracker { wcInit s with cc := 257 }

/-- RP.reset(side): the entry store, the width state, CC and the tracker at their start values; the Decoder forgets
PRIOR and awaits a first codeword (R108). Nothing is written to a stream. -/
def rpReset (side : Dir) (s : State) : State :=
  match side with
  | .enc => restartWidth (dictInit s)
  | .dec => { restartWidth (tabInit s) with prior := none, st := .awaitFirst }

/-- RP.check.none: nothing (R109). -/
def rpCheckNone (s : State) : State := s

/-- RP.check.periodic(side): reset when full at max width (R110). -/
def rpCheckPeriodic (side : Dir) (s : State) : State :=
  if fullAtMaxWidth side s then rpReset side s else s

/-- RP.check.monitored(side): while monitoring, reset when degraded; else capture when full at max width (R111). -/
def rpCheckMonitored (side : Dir) (s : State) : State :=
  if s.mon then
    if degraded s then rpReset side s else s
  else if fullAtMaxWidth side s then rtCapture s
  else s

/-- RP.check(side): the variant that MODE selects (R107). -/
def rpCheck (side : Dir) (s : State) : State :=
  match s.mode with
  | .none => rpCheckNone s
  | .periodic => rpCheckPeriodic side s
  | .monitored => rpCheckMonitored side s

/-- What follows the insert and the tracker update of every symbol: growth check, then policy check (R101, R106). -/
def postStep (side : Dir) (s : State) : State := rpCheck side (growthCheck side s)

/-- RP.check(side) (R107). -/
def execRpCheck (side : Dir) (s : State) : Answer := .next (rpCheck side s)

/-- RP.reset(side) (R108). -/
def execRpReset (side : Dir) (s : State) : Answer := .next (rpReset side s)

/-- RP.check.none (R109). -/
def execRpCheckNone (s : State) : Answer := .next (rpCheckNone s)

/-- RP.check.periodic(side) (R110). -/
def execRpCheckPeriodic (side : Dir) (s : State) : Answer := .next (rpCheckPeriodic side s)

/-- RP.check.monitored(side) (R111). -/
def execRpCheckMonitored (side : Dir) (s : State) : Answer := .next (rpCheckMonitored side s)

/-- RT.update(t), t >= 1 (R114). -/
def execRtUpdate (t : Nat) (s : State) : Answer :=
  if 1 ≤ t then .next (rtUpdate t s) else .refused .operandOutsideContract

/-- RT.capture (R115). -/
def execRtCapture (s : State) : Answer := .next (rtCapture s)

/-- RT.degraded (R116). -/
def execRtDegraded (s : State) : Answer := .next (answer (.bool (degraded s)) s)

end Sys2Proof.Machine
end

