-- ==== Sys2Proof/Machine/Channel.lean ====
section
/-! DEFINITION. The meanings of the channel and buffer rows BitWrite, BitRead, BitClose, InByte, OutBytes
(spec/20_memory.md) and of TAG.write, TAG.read and the tag symbols (spec/45_mode_selection_and_control.md). The spec
invokes these rows at fixed places only; that the channel and buffer rows and TAG.write, run by themselves, act in any DIR
and ST is a DESIGN CHOICE (notes/assumptions/23.md). -/

namespace Sys2Proof.Machine

/-- BitWrite(v, n), 1 <= n <= 16 (R42); of a `v` with more bits the low `n` are written (R13). -/
def execBitWrite (v : Codeword) (n : Nat) (s : State) : Answer :=
  if 1 ≤ n ∧ n ≤ 16 then .next (bitWrite v n s) else .refused .operandOutsideContract

/-- BitRead(n), 1 <= n <= 16: answers the integer, or Exhausted (R43). It raises nothing by itself. -/
def execBitRead (n : Nat) (s : State) : Answer :=
  if 1 ≤ n ∧ n ≤ 16 then
    match bitRead n s with
    | some (v, s') => .next (answer (.codeword v) s')
    | none => .next (answer .exhausted s)
  else .refused .operandOutsideContract

/-- BitClose() (R44). DESIGN CHOICE (notes/assumptions/23.md): run by itself it pads in any DIR and ST, again if it is run
again, and closes nothing against a later BitWrite; the Encoder calls it once, after EOF. -/
def execBitClose (s : State) : Answer := .next (bitClose s)

/-- InByte(i), i < N (R48). -/
def execInByte (i : Nat) (s : State) : Answer :=
  match inByte i s with
  | some b => .next (answer (.byte b) s)
  | none => .refused .operandOutsideContract

/-- OutBytes(s), |s| >= 1 (R49). -/
def execOutBytes (bytes : Str) (s : State) : Answer :=
  if 1 ≤ bytes.length then .next (outBytes bytes s) else .refused .operandOutsideContract

/-- The Encoder's write of the tag: `BitWrite(tag(mode), 8)` (R162). -/
def tagWrite (mode : Mode) (s : State) : State := bitWrite ((tagOf mode).setWidth 16) 8 s

/-- TAG.write(mode) (R162). DESIGN CHOICE (notes/assumptions/23.md): run by itself outside ENC.start it appends the tag to
whatever OUTBITS holds, in any DIR and ST. -/
def execTagWrite (mode : Mode) (s : State) : Answer := .next (tagWrite mode s)

/-- The effect of a tag byte that has been read: MODE by the value, or the error of DEC.start (R163, R174). The flag
says whether the start goes on. -/
def takeTag (tag : Byte) (s : State) : Bool × State :=
  match modeOfTag tag with
  | some m => (true, { s with mode := m })
  | none => (false, raiseAtStart .malformedModeTag (tag.setWidth 16) s)

/-- The Decoder's read of the tag: BitRead(8) and the mapping to MODE (R163), with its two errors (R174, R175). -/
def readTag (s : State) : Bool × State :=
  match bitRead 8 s with
  | none => (false, raiseAtStart .truncatedStream 8 s)
  | some (v, s') => takeTag (v.setWidth 8) s'

/-- TAG.read, inside DEC.start, where ST is still Halted: nothing changes MODE during a run (R161, R163). DESIGN CHOICE
(notes/assumptions/19.md): run by itself it tests ST only, not DIR, which it leaves as it is, an error's record included. -/
def execTagRead (s : State) : Answer :=
  match s.st with
  | .halted => .next (readTag s).2
  | .awaitFirst => .refused .notEnabled
  | .running => .refused .notEnabled

/-- A tag symbol that DEC.start has read (R163, R174): its bits are already taken. DESIGN CHOICE (notes/assumptions/19.md):
run by itself it tests ST only, not DIR, which it leaves as it is, an error's record included. -/
def execTagSymbol (tag : Byte) (s : State) : Answer :=
  match s.st with
  | .halted => .next (takeTag tag s).2
  | .awaitFirst => .refused .notEnabled
  | .running => .refused .notEnabled

/-- TAG.NONE: MODE <- NONE (R163). -/
def execTagNone (s : State) : Answer := execTagSymbol (tagOf .none) s

/-- TAG.PERIODIC: MODE <- PERIODIC (R163). -/
def execTagPeriodic (s : State) : Answer := execTagSymbol (tagOf .periodic) s

/-- TAG.MONITORED: MODE <- MONITORED (R163). -/
def execTagMonitored (s : State) : Answer := execTagSymbol (tagOf .monitored) s

/-- TAG.INVALID: raise MalformedModeTag(tag) (R174). -/
def execTagInvalid (tag : Byte) (s : State) : Answer :=
  if (modeOfTag tag).isSome then .refused .notOfClass else execTagSymbol tag s

end Sys2Proof.Machine
end

