-- ==== Sys2Proof/Machine/Operands.lean ====
section
/-! DEFINITION. The operand forms: the byte string a codeword denotes, and the longest match of the input
(spec/30_encoding.md R64, R65; spec/40_dictionary_and_table.md R82, R88). -/

namespace Sys2Proof.Machine

/-- TAB.lookup(c): `<c>` for a literal "in every state of the table" (R88; R147 corner case (d), notes/assumptions/13.md),
otherwise `TAB[c]`. -/
def tabLookup (c : Codeword) (s : State) : Option Str :=
  if c.toNat < 256 then some [c.setWidth 8] else tabGet s c.toNat

/-- The one-ahead value `PRIOR ++ <PRIOR[0]>` (R147). -/
def oneAhead (s : State) : Option Str :=
  match s.prior with
  | some (p :: ps) => some ((p :: ps) ++ [p])
  | some [] => none
  | none => none

/-- The loop of DICT.longestPrefixOf: extends the match by the next input byte as long as the longer string is a key
(R82). -/
def extendMatch (s : State) (found : Str) : Str → Str
  | [] => found
  | b :: rest => if (dictGet s (found ++ [b])).isSome then extendMatch s (found ++ [b]) rest else found

/-- DICT.longestPrefixOf(i): the longest key that is a prefix of `IN[i:]`, which starts from the single byte `IN[i]`
(R82); nothing if `i >= N`. -/
def longestPrefix (i : Nat) (s : State) : Option Str :=
  match s.input.drop i with
  | [] => none
  | b :: rest => some (extendMatch s [b] rest)

end Sys2Proof.Machine
end

