-- ==== Sys2Proof/Machine/Decoder.lean ====
section
/-! DEFINITION. The Decoder state machine and the meanings of the codeword classes (spec/44_decoder.md). -/

namespace Sys2Proof.Machine

/-! DEC.start. -/

/-- What DEC.start does before the tag read (R141). -/
def decPrepare (s : State) : State :=
  { s with dir := .dec, err := .none, errinfo := 0, outb := [], rp := 0 }

/-- What DEC.start does after a recognised tag (R141). -/
def decLoad (s : State) : State :=
  { restartWidth (tabInit s) with prior := none, st := .awaitFirst }

/-- The whole of DEC.start (R141). -/
def decBegin (s : State) : State :=
  match readTag (decPrepare s) with
  | (true, s') => decLoad s'
  | (false, s') => s'

/-- DEC.start, ST = Halted (R141, R169). -/
def execDecStart (s : State) : Answer :=
  match s.st with
  | .halted => .next (decBegin s)
  | .awaitFirst => .refused .startWhileRunning
  | .running => .refused .startWhileRunning

/-! One symbol, after its codeword has been read and classified. -/

/-- The rest of DEC.first once the value is known: output, PRIOR, tracker, the two checks, ST (R145). -/
def decFirstValue (next : Str) (s : State) : State :=
  let s := outBytes next s
  let s := { s with prior := some next }
  let s := postStep .dec (rtUpdate next.length s)
  { s with st := .running }

/-- The append of DEC.next: `TAB.append(PRIOR ++ <next[0]>)` if the table is not full (R147). -/
def decAppend (prior : Str) (first : Byte) (s : State) : State :=
  if notFullForInsert s then tabAppend (prior ++ [first]) s else s

/-- The rest of DEC.next once PRIOR and the value `first :: more` are known (R147). -/
def decNextValue (prior : Str) (first : Byte) (more : Str) (s : State) : State :=
  let next := first :: more
  let s := decAppend prior first s
  let s := outBytes next s
  let s := { s with prior := some next }
  postStep .dec (rtUpdate next.length s)

/-- DEC.next with the value looked up: PRIOR has a value and the value read is not empty, or the model would read a
value that does not exist (U8). -/
def decContinue (next : Option Str) (s : State) : Answer :=
  match s.prior, next with
  | some prior, some (first :: more) => .next (decNextValue prior first more s)
  | some _, some [] => .refused .noValue
  | some _, none => .refused .noValue
  | none, _ => .refused .noValue

/-! The codeword classes. Each condition is that of R65; a codeword instruction outside its class is refused
(notes/assumptions/21.md). -/

/-- CW.LIT: the value `<b>`, as DEC.first or DEC.next takes it (R145, R147). -/
def execCwLit (b : Byte) (s : State) : Answer :=
  match s.dir, s.st with
  | .dec, .awaitFirst => .next (decFirstValue [b] s)
  | .dec, .running => decContinue (some [b]) s
  | .dec, .halted => .refused .notEnabled
  | .enc, _ => .refused .notEnabled

/-- CW.EOF: Halted with success; nothing else changes (R146). -/
def execCwEof (s : State) : Answer :=
  match s.dir, s.st with
  | .dec, .awaitFirst => .next { s with st := .halted }
  | .dec, .running => .next { s with st := .halted }
  | .dec, .halted => .refused .notEnabled
  | .enc, _ => .refused .notEnabled

/-- CW.REF: the value `TAB[c]`, 257 <= c < CC (R147). -/
def execCwRef (c : Codeword) (s : State) : Answer :=
  match s.dir, s.st with
  | .dec, .running =>
    if 257 ≤ c.toNat ∧ c.toNat < s.cc then decContinue (tabLookup c s) s else .refused .notOfClass
  | .dec, .awaitFirst => .refused .notOfClass
  | .dec, .halted => .refused .notEnabled
  | .enc, _ => .refused .notEnabled

/-- CW.KWKWK: the one-ahead value, c == CC (R147). -/
def execCwKwkwk (c : Codeword) (s : State) : Answer :=
  match s.dir, s.st with
  | .dec, .running =>
    if 257 ≤ c.toNat ∧ c.toNat = s.cc then decContinue (oneAhead s) s else .refused .notOfClass
  | .dec, .awaitFirst => .refused .notOfClass
  | .dec, .halted => .refused .notEnabled
  | .enc, _ => .refused .notEnabled

/-- CW.OOR: raise CodewordOutOfRange(c), c > CC in Running, c >= 257 in AwaitFirst (R145, R147, R176). -/
def execCwOor (c : Codeword) (s : State) : Answer :=
  match s.dir, s.st with
  | .dec, .awaitFirst =>
    if 257 ≤ c.toNat then .next (raise .codewordOutOfRange c s) else .refused .notOfClass
  | .dec, .running =>
    if 257 ≤ c.toNat ∧ s.cc < c.toNat then .next (raise .codewordOutOfRange c s) else .refused .notOfClass
  | .dec, .halted => .refused .notEnabled
  | .enc, _ => .refused .notEnabled

/-! The two operations that read a codeword. -/

/-- Runs the class of a codeword that has been read (R65). -/
def runClass (c : Codeword) (s : State) : Answer :=
  match classify s.st s.cc c with
  | some (.cwLit b) => execCwLit b s
  | some .cwEof => execCwEof s
  | some (.cwRef c) => execCwRef c s
  | some (.cwKwkwk c) => execCwKwkwk c s
  | some (.cwOor c) => execCwOor c s
  | _ => .refused .notEnabled

/-- Reads a codeword at the current W and runs it; `raise TruncatedStream(W)` if fewer bits are left (R143, R144). -/
def readCodeword (s : State) : Answer :=
  match bitRead s.w s with
  | none => .next (raise .truncatedStream (BitVec.ofNat 16 s.w) s)
  | some (c, s') => runClass c s'

/-- DEC.first, ST = AwaitFirst in a Decoder (R142, R145). -/
def execDecFirst (s : State) : Answer :=
  if s.dir = .dec ∧ s.st = .awaitFirst then readCodeword s else .refused .notEnabled

/-- DEC.next, ST = Running in a Decoder (R142, R147). -/
def execDecNext (s : State) : Answer :=
  if s.dir = .dec ∧ s.st = .running then readCodeword s else .refused .notEnabled

end Sys2Proof.Machine
end

