-- ==== Sys2Proof/Machine/Encoder.lean ====
section
/-! DEFINITION. The Encoder state machine (spec/43_encoder.md). -/

namespace Sys2Proof.Machine

/-- What ENC.start does (R126). -/
def encLoad (mode : Mode) (s : State) : State :=
  let s := { s with dir := .enc, mode := mode, err := .none, errinfo := 0 }
  let s := restartWidth (dictInit s)
  let s := { s with cur := 0, outbits := [] }
  { tagWrite mode s with st := .running }

/-- ENC.start(mode), ST = Halted (R126, R169). -/
def execEncStart (mode : Mode) (s : State) : Answer :=
  match s.st with
  | .halted => .next (encLoad mode s)
  | .awaitFirst => .refused .startWhileRunning
  | .running => .refused .startWhileRunning

/-- Part 3 of ENC.step: if a byte follows the match and the table is not full, insert the match and that byte (R128). -/
def encInsert (found : Str) (s : State) : State :=
  match inByte (s.cur + found.length) s with
  | some b => if notFullForInsert s then dictInsert found b s else s
  | none => s

/-- Parts 2 to 5 of ENC.step, with the match and its codeword (R128). -/
def encEmit (found : Str) (code : Codeword) (s : State) : State :=
  let t := found.length
  let s := rtUpdate t (bitWrite code s.w s)
  let s := encInsert found s
  let s := postStep .enc s
  { s with cur := s.cur + t }

/-- ENC.step, ST = Running and CUR < N in an Encoder (R127, R128). -/
def execEncStep (s : State) : Answer :=
  if s.dir = .enc ∧ s.st = .running then
    match longestPrefix s.cur s with
    | none => .refused .notEnabled
    | some found =>
      match dictGet s found with
      | none => .refused .noValue
      | some code => .next (encEmit found code s)
  else .refused .notEnabled

/-- ENC.eof, ST = Running and CUR == N in an Encoder: EOF at the current W, the pad, Halted (R131). -/
def execEncEof (s : State) : Answer :=
  if s.dir = .enc ∧ s.st = .running ∧ s.cur = inputLength s then
    .next { bitClose (bitWrite 256 s.w s) with st := .halted }
  else .refused .notEnabled

end Sys2Proof.Machine
end

