-- ==== Sys2Proof/Machine/Command.lean ====
section
/-! DEFINITION. The host commands START and STATUS (spec/45_mode_selection_and_control.md R166 to R169). -/

namespace Sys2Proof.Machine

/-- START(0, NONE): exactly ENC.start(NONE) (R166). -/
def execStartCompressNone (s : State) : Answer := execEncStart .none s

/-- START(0, PERIODIC): exactly ENC.start(PERIODIC) (R166). -/
def execStartCompressPeriodic (s : State) : Answer := execEncStart .periodic s

/-- START(0, MONITORED): exactly ENC.start(MONITORED) (R166). -/
def execStartCompressMonitored (s : State) : Answer := execEncStart .monitored s

/-- CMD 0b011: refused, in every state (R70, R10; U3). -/
def execStartReserved (_ : State) : Answer := .refused .reservedMode

/-- START(1, -): exactly DEC.start, the two mode bits ignored (R70, R167). -/
def execStartExpand (_ : BitVec 2) (s : State) : Answer := execDecStart s

/-- STATUS: answers ST, ERR and ERRINFO by their numbers, at any time, with no side effect (R168, D9). -/
def execStatus (s : State) : Answer := .next (answer (.status s.st.code s.err.code s.errinfo) s)

end Sys2Proof.Machine
end

