-- ==== Sys2Proof/Machine/Stores.lean ====
section
/-! DEFINITION. The meanings of the PrefixDictionary's and the CodeTable's rows (spec/40_dictionary_and_table.md). An
operation outside its contract is refused (notes/assumptions/12.md). The spec invokes these rows at fixed places only
(R71); that run by themselves they act in any DIR and ST is a DESIGN CHOICE (notes/assumptions/23.md). -/

namespace Sys2Proof.Machine

/-- DICT.init (R81). -/
def execDictInit (s : State) : Answer := .next (dictInit s)

/-- DICT.longestPrefixOf(i), `i < N`: answers (t, s) (R82). -/
def execDictLongestPrefixOf (i : Nat) (s : State) : Answer :=
  match longestPrefix i s with
  | some found => .next (answer (.matched found.length found) s)
  | none => .refused .operandOutsideContract

/-- DICT.get(s), s a key (R83). -/
def execDictGet (key : Str) (s : State) : Answer :=
  match dictGet s key with
  | some code => .next (answer (.codeword code) s)
  | none => .refused .noValue

/-- DICT.insert(s, b), s a key, `s ++ <b>` not a key, CC < L (R84); in any DIR and ST (DESIGN CHOICE,
notes/assumptions/23.md). -/
def execDictInsert (key : Str) (b : Byte) (s : State) : Answer :=
  if (dictGet s key).isNone then .refused .noValue
  else if (dictGet s (key ++ [b])).isSome then .refused .insertOutsideContract
  else if notFullForInsert s then .next (dictInsert key b s)
  else .refused .insertOutsideContract

/-- TAB.init (R87). -/
def execTabInit (s : State) : Answer := .next (tabInit s)

/-- TAB.lookup(c), c < CC and c not 256 (R88). -/
def execTabLookup (c : Codeword) (s : State) : Answer :=
  if c.toNat < s.cc ∧ c.toNat ≠ 256 then
    match tabLookup c s with
    | some value => .next (answer (.string value) s)
    | none => .refused .noValue
  else .refused .operandOutsideContract

/-- TAB.append(s), |s| >= 2, CC < L (R90); in any DIR and ST (DESIGN CHOICE, notes/assumptions/23.md). -/
def execTabAppend (value : Str) (s : State) : Answer :=
  if 2 ≤ value.length then
    if notFullForInsert s then .next (tabAppend value s) else .refused .insertOutsideContract
  else .refused .operandOutsideContract

end Sys2Proof.Machine
end

