-- ==== Sys2Proof/Machine/Dispatch.lean ====
section
/-! DEFINITION. The dispatch: one arm per constructor of Instr, each a direct call of its meaning. -/

namespace Sys2Proof.Machine

def exec (i : Instr) (s : State) : Host.Outcome State Fault Refusal :=
  match i with
  | .tagNone => Sys2Proof.Machine.execTagNone s
  | .tagPeriodic => Sys2Proof.Machine.execTagPeriodic s
  | .tagMonitored => Sys2Proof.Machine.execTagMonitored s
  | .tagInvalid tag => Sys2Proof.Machine.execTagInvalid tag s
  | .cwLit b => Sys2Proof.Machine.execCwLit b s
  | .cwEof => Sys2Proof.Machine.execCwEof s
  | .cwRef c => Sys2Proof.Machine.execCwRef c s
  | .cwKwkwk c => Sys2Proof.Machine.execCwKwkwk c s
  | .cwOor c => Sys2Proof.Machine.execCwOor c s
  | .startCompressNone => Sys2Proof.Machine.execStartCompressNone s
  | .startCompressPeriodic => Sys2Proof.Machine.execStartCompressPeriodic s
  | .startCompressMonitored => Sys2Proof.Machine.execStartCompressMonitored s
  | .startReserved => Sys2Proof.Machine.execStartReserved s
  | .startExpand ignored => Sys2Proof.Machine.execStartExpand ignored s
  | .status => Sys2Proof.Machine.execStatus s
  | .dictInit => Sys2Proof.Machine.execDictInit s
  | .dictLongestPrefixOf n => Sys2Proof.Machine.execDictLongestPrefixOf n s
  | .dictGet key => Sys2Proof.Machine.execDictGet key s
  | .dictInsert key b => Sys2Proof.Machine.execDictInsert key b s
  | .tabInit => Sys2Proof.Machine.execTabInit s
  | .tabLookup c => Sys2Proof.Machine.execTabLookup c s
  | .tabAppend value => Sys2Proof.Machine.execTabAppend value s
  | .wcInit => Sys2Proof.Machine.execWcInit s
  | .wcIsFull side => Sys2Proof.Machine.execWcIsFull side s
  | .wcGrow => Sys2Proof.Machine.execWcGrow s
  | .wcShouldGrow side => Sys2Proof.Machine.execWcShouldGrow side s
  | .wcGrowthCheck side => Sys2Proof.Machine.execWcGrowthCheck side s
  | .rpCheck side => Sys2Proof.Machine.execRpCheck side s
  | .rpReset side => Sys2Proof.Machine.execRpReset side s
  | .rpCheckNone => Sys2Proof.Machine.execRpCheckNone s
  | .rpCheckPeriodic side => Sys2Proof.Machine.execRpCheckPeriodic side s
  | .rpCheckMonitored side => Sys2Proof.Machine.execRpCheckMonitored side s
  | .rtUpdate t => Sys2Proof.Machine.execRtUpdate t s
  | .rtCapture => Sys2Proof.Machine.execRtCapture s
  | .rtDegraded => Sys2Proof.Machine.execRtDegraded s
  | .encStart mode => Sys2Proof.Machine.execEncStart mode s
  | .encStep => Sys2Proof.Machine.execEncStep s
  | .encEof => Sys2Proof.Machine.execEncEof s
  | .decStart => Sys2Proof.Machine.execDecStart s
  | .decFirst => Sys2Proof.Machine.execDecFirst s
  | .decNext => Sys2Proof.Machine.execDecNext s
  | .tagWrite mode => Sys2Proof.Machine.execTagWrite mode s
  | .tagRead => Sys2Proof.Machine.execTagRead s
  | .bitWrite v n => Sys2Proof.Machine.execBitWrite v n s
  | .bitRead n => Sys2Proof.Machine.execBitRead n s
  | .bitClose => Sys2Proof.Machine.execBitClose s
  | .inByte n => Sys2Proof.Machine.execInByte n s
  | .outBytes bytes => Sys2Proof.Machine.execOutBytes bytes s

end Sys2Proof.Machine
end

