-- ==== Sys2Proof/Machine/Fetch.lean ====
section
/-! DEFINITION. What the next step runs: the host's command if one waits, else the instance's own enabled operation, for
a Decoder the next codeword of the stream (spec/43_encoder.md R127, spec/44_decoder.md R142, spec/30_encoding.md R67). -/

namespace Sys2Proof.Machine

/-- The outcome of a fetch. -/
inductive Fetched where
  /-- the instruction to run, in the state with its bits or its request taken -/
  | run (i : Instr) (s : State)
  /-- the error the fetch itself raised, taken -/
  | raised (s : State)
  /-- no enabled operation -/
  | stuck (r : Fault)
  deriving DecidableEq, Repr

/-- The instruction of a host transaction (R70, R168). -/
def decodeRequest : Request → Instr
  | .start cmd => decodeCmd cmd
  | .status => .status

/-- The Encoder's enabled operation (R127). -/
def fetchEncoder (s : State) : Fetched :=
  if s.cur < inputLength s then .run .encStep s
  else if s.cur = inputLength s then .run .encEof s
  else .stuck .noEnabledOperation

/-- The Decoder's next codeword at the current W, with RP past it; exhaustion raises TruncatedStream(W) (R43, R143). -/
def fetchDecoder (s : State) : Fetched :=
  match decodeSymbol (.codeword s.w s.st s.cc) (s.inbits.drop s.rp) with
  | .ok (i, _) => .run i (advance s.w s)
  | .error (.exhausted n) => .raised (raise .truncatedStream (BitVec.ofNat 16 n) s)
  | .error .noCodewordAwaited => .stuck .noEnabledOperation

/-- The fetch. -/
def fetch (s : State) : Fetched :=
  match s.request with
  | some r => .run (decodeRequest r) { s with request := none }
  | none =>
    match s.st, s.dir with
    | .halted, _ => .stuck .haltedNoRequest
    | .running, .enc => fetchEncoder s
    | .awaitFirst, .enc => .stuck .noEnabledOperation
    | .running, .dec => fetchDecoder s
    | .awaitFirst, .dec => fetchDecoder s

/-- `s` about to fetch what the opcode table numbers as the word `w` of `nbits` bits (Sys2Proof.decodeTableWord): a CMD
word waits as the host's command; a tag byte is the stream that a waiting START.EXPAND reads; a codeword is the stream
of a Decoder in AwaitFirst, at W = 9 if it fits 9 bits and at W = 16 otherwise (notes/assumptions/5.md and 14.md). -/
def placeTableWord (s : State) (nbits w : Nat) : State :=
  if nbits = 0 then s
  else if nbits ≤ 8 then
    if w % 2 ^ nbits < 8 then
      { s with st := .halted, request := some (.start (BitVec.ofNat 3 w)) }
    else
      { s with st := .halted, request := some (.start 0b100), inbits := bitsOfNat 8 w, rp := 0 }
  else if nbits ≤ 16 then
    if w % 2 ^ 16 < 512 then
      { s with request := none, dir := .dec, st := .awaitFirst, w := 9, l := 512, inbits := bitsOfNat 9 w, rp := 0 }
    else
      { s with request := none, dir := .dec, st := .awaitFirst, w := 16, l := 65536, inbits := bitsOfNat 16 w, rp := 0 }
  else s

end Sys2Proof.Machine
end

