-- ==== Sys2Proof/Safety.lean ====
section
/-! DEFINITION. What holds of the machine at every point outside the middle of a step: the invariants of
spec/10_state.md R34 to R36 with what makes them inductive, in the terms the statements use. While ST = Halted the
registers carry no promise (they are unspecified at power-on and after a failed DEC.start), the form of the two stores
apart. -/

namespace Sys2Proof.Machine

/-- A run is in progress (R11, R20). -/
abbrev State.inRun (s : State) : Prop := s.st ≠ .halted

/-- How far the side's count lags the Encoder's when it is tested for fullness: the one-early form (R97, R99). -/
def lag : Dir → Nat
  | .enc => 0
  | .dec => 1

/-- R34: `L == 2^W` and `9 <= W <= 16`. -/
def State.widthInv (s : State) : Prop :=
  s.inRun → 9 ≤ s.w ∧ s.w ≤ 16 ∧ s.l = 2 ^ s.w

/-- R35: `257 <= CC <= L`; `CC < L`, on the Decoder `CC < L - 1`, unless W = 16 and the table may be full, which is in
mode NONE, and in mode MONITORED while MON = 1. -/
def State.countInv (s : State) : Prop :=
  s.inRun → 257 ≤ s.cc ∧ s.cc ≤ s.l ∧
    (s.w < 16 ∨ s.mode = .periodic ∨ (s.mode = .monitored ∧ s.mon = false) → s.cc + lag s.dir < s.l)

/-- What ST says of the other registers (R20, R26, R27, R145): AwaitFirst is a Decoder at the start of an epoch, without
PRIOR; a running Decoder has a nonempty PRIOR, a value of its table; the cursor and the read position stay in their
buffers; no error is recorded during a run (R21). -/
def State.controlInv (s : State) : Prop :=
  (s.st = .awaitFirst → s.dir = .dec ∧ s.w = 9 ∧ s.cc = 257 ∧ s.prior = none ∧
    s.u = 0 ∧ s.c = 0 ∧ s.bu = 0 ∧ s.bc = 0 ∧ s.mon = false) ∧
  (s.st = .running → s.dir = .dec → ∃ p i, s.prior = some p ∧ p ≠ [] ∧ tabGet s i = some p) ∧
  (s.inRun → s.dir = .enc → s.cur ≤ inputLength s) ∧
  (s.inRun → s.dir = .dec → s.rp ≤ s.inbits.length) ∧
  (s.inRun → s.err = .none ∧ s.errinfo = 0)

/-- R28 to R30, R119: the tracker stays zero unless MODE = MONITORED; the baseline is there exactly while MON = 1, which
implies W = 16 (R130), and is never ahead of the counters. -/
def State.trackerInv (s : State) : Prop :=
  s.inRun →
    (s.mode ≠ .monitored → s.u = 0 ∧ s.c = 0 ∧ s.bu = 0 ∧ s.bc = 0 ∧ s.mon = false) ∧
    (s.mon = false → s.bu = 0 ∧ s.bc = 0) ∧
    (s.mon = true → s.w = 16 ∧ 0 < s.bu ∧ 0 < s.bc ∧ s.bu ≤ s.u ∧ s.bc ≤ s.c)

/-- R36, Encoder: the keys are the 256 single bytes, each with its own value, and one longer key for each codeword in
[257, CC); the map is injective and its key set prefix-closed. -/
def State.dictInv (s : State) : Prop :=
  s.inRun → s.dir = .enc →
    (∀ b : Byte, dictGet s [b] = some (b.setWidth 16)) ∧
    (∀ k c, dictGet s k = some c → k.length = 1 ∨ (2 ≤ k.length ∧ 257 ≤ c.toNat ∧ c.toNat < s.cc)) ∧
    (∀ i, 257 ≤ i → i < s.cc → ∃ k, dictGet s k = some (BitVec.ofNat 16 i)) ∧
    (∀ k k' c, dictGet s k = some c → dictGet s k' = some c → k = k') ∧
    (∀ k b c, k ≠ [] → dictGet s (k ++ [b]) = some c → ∃ c', dictGet s k = some c')

/-- R36, Decoder: `TAB[i]` has a value exactly for i in [0, 256), where it is `<i>`, and in [257, CC), where it has at
least two bytes; the set of values is prefix-closed. (That no value occurs twice holds only of streams an Encoder
wrote: R92.) -/
def State.tabInv (s : State) : Prop :=
  s.inRun → s.dir = .dec →
    (∀ i, (∃ v, tabGet s i = some v) ↔ i < 256 ∨ (257 ≤ i ∧ i < s.cc)) ∧
    (∀ b : Byte, tabGet s b.toNat = some [b]) ∧
    (∀ i v, 257 ≤ i → tabGet s i = some v → 2 ≤ v.length) ∧
    (∀ i v b, v ≠ [] → tabGet s i = some (v ++ [b]) → ∃ j, tabGet s j = some v)

/-- The two stores are in canonical form, in every state. -/
def State.storesWf (s : State) : Prop :=
  assocWf strLt s.dict ∧ assocWf idxLt s.tab

/-- All of them. -/
structure State.Inv (s : State) : Prop where
  width   : s.widthInv
  count   : s.countInv
  control : s.controlInv
  tracker : s.trackerInv
  dict    : s.dictInv
  tab     : s.tabInv
  stores  : s.storesWf

/-! What one symbol leaves before the policy check, field by field: the terms in which the statements about ENC.step and
DEC.next are written (R128, R147). -/

/-- The Encoder's state after parts 1 to 3 and the growth check of ENC.step, for the match `found` with codeword `code`
(R128): the codeword written at W, the tracker counted in mode MONITORED, the match and the next byte inserted if there
is a next byte and CC < L, W and L grown if the count has then reached L with W < 16. -/
def encBeforePolicy (found : Str) (code : Codeword) (s : State) : State :=
  let inserts := s.cur + found.length < s.input.length ∧ s.cc < s.l
  let cc' := if inserts then s.cc + 1 else s.cc
  let grows := cc' = s.l ∧ s.w < 16
  { s with
    outbits := s.outbits ++ bitsOfNat s.w code.toNat
    u := if s.mode = .monitored then s.u + 8 * found.length else s.u
    c := if s.mode = .monitored then s.c + s.w else s.c
    dict := match s.input[s.cur + found.length]? with
      | some b => if s.cc < s.l then assocSet strLt s.dict (found ++ [b]) (BitVec.ofNat 16 s.cc) else s.dict
      | none => s.dict
    cc := cc'
    w := if grows then s.w + 1 else s.w
    l := if grows then s.l * 2 else s.l }

/-- The Decoder's state after the append, the output, the tracker and the growth check of DEC.next, for PRIOR = `prior`
and the value `first :: more` (R147): the growth check is one early. -/
def decBeforePolicy (prior : Str) (first : Byte) (more : Str) (s : State) : State :=
  let cc' := if s.cc < s.l then s.cc + 1 else s.cc
  let grows := cc' + 1 = s.l ∧ s.w < 16
  { s with
    tab := if s.cc < s.l then assocSet idxLt s.tab s.cc (prior ++ [first]) else s.tab
    cc := cc'
    outb := s.outb ++ first :: more
    prior := some (first :: more)
    u := if s.mode = .monitored then s.u + 8 * (more.length + 1) else s.u
    c := if s.mode = .monitored then s.c + s.w else s.c
    w := if grows then s.w + 1 else s.w
    l := if grows then s.l * 2 else s.l }

/-- The value of a codeword that a running Decoder accepts (R65, R147): the byte of a literal, the entry of a reference,
or PRIOR and its own first byte for the one-ahead codeword. -/
def codewordValue (s : State) (c : Codeword) (value : Str) : Prop :=
  (c.toNat < 256 ∧ value = [c.setWidth 8]) ∨
  (257 ≤ c.toNat ∧ c.toNat < s.cc ∧ tabGet s c.toNat = some value) ∨
  (257 ≤ c.toNat ∧ c.toNat = s.cc ∧ ∃ p ps, s.prior = some (p :: ps) ∧ value = (p :: ps) ++ [p])

/-- The end-of-stream case in which the Decoder's check after the last data codeword fires and the Encoder's did not, by
the state `e` an Encoder run ends in: the Decoder grows, or in mode PERIODIC resets (R203). -/
def State.endDesync (e : State) : Prop :=
  e.cc + 1 = e.l ∧ (e.w < 16 ∨ e.mode = .periodic)

end Sys2Proof.Machine
end

