-- ==== Sys2Proof/Certificates/Slice0/Obligations.lean ====
section
/-! DEFINITION. The statements about the machine, for the provers. Each docstring names the rules of spec/ it comes
from. -/

open Sys2Proof Sys2Proof.Machine

/-! ## Encodings (spec/30_encoding.md) -/

/-- Every tag, codeword class and host command decodes from its own encoding, with every operand at every value the
encoding admits, whatever follows (R61, R63, R64, R65, R70; the tag values and the CMD word are the spec's decisions D1
and D2). -/
def Obligations.DecodeOfEncode : Prop :=
  ∀ (i : Instr) (w : Nat) (st : St) (cc : Nat) (a : Awaited) (bits rest : Bits),
    i.WellFormed = true → i.inClass st cc = true → i.fits w = true →
    awaitedFor w st cc i = some a → encode w i = some bits →
    decodeSymbol a (bits ++ rest) = .ok (i, rest)

/-- What the decoder accepts is the encoding of the instruction it answers, which is well formed and of its class, and
nothing of the bits is dropped (R61, R63, R65, R70, decisions D1 and D2). -/
def Obligations.EncodeOfDecode : Prop :=
  ∀ (a : Awaited) (w : Nat) (st : St) (cc : Nat) (bits rest : Bits) (i : Instr),
    w ≤ 16 → (a = .tag ∨ a = .command ∨ a = .codeword w st cc) →
    decodeSymbol a bits = .ok (i, rest) →
    i.WellFormed = true ∧ i.inClass st cc = true ∧ awaitedFor w st cc i = some a ∧
      ∃ bs, encode w i = some bs ∧ bits = bs ++ rest

/-- Words written out from the encodings: the tags n, r, m and 0x1F, `A` at 9 bits, EOF at 9 and 10 bits, 257 and 259
with CC = 259, 300 with CC = 257, 257 in AwaitFirst, and commands (R61 to R65, R70, decisions D1, D2 and D12). -/
def Obligations.DecodeSampleWords : Prop :=
  decodeSymbol .tag [false, true, true, false, true, true, true, false] = .ok (.tagNone, []) ∧
  decodeSymbol .tag [false, true, true, true, false, false, true, false] = .ok (.tagPeriodic, []) ∧
  decodeSymbol .tag [false, true, true, false, true, true, false, true] = .ok (.tagMonitored, []) ∧
  decodeSymbol .tag [false, false, false, true, true, true, true, true] = .ok (.tagInvalid 0x1F, []) ∧
  decodeSymbol (.codeword 9 .awaitFirst 257) [false, false, true, false, false, false, false, false, true, true] =
    .ok (.cwLit 0x41, [true]) ∧
  decodeSymbol (.codeword 9 .running 260) [true, false, false, false, false, false, false, false, false] =
    .ok (.cwEof, []) ∧
  decodeSymbol (.codeword 10 .running 600) [false, true, false, false, false, false, false, false, false, false] =
    .ok (.cwEof, []) ∧
  decodeSymbol (.codeword 9 .running 259) [true, false, false, false, false, false, false, false, true] =
    .ok (.cwRef 257, []) ∧
  decodeSymbol (.codeword 9 .running 259) [true, false, false, false, false, false, false, true, true] =
    .ok (.cwKwkwk 259, []) ∧
  decodeSymbol (.codeword 9 .running 257) [true, false, false, true, false, true, true, false, false] =
    .ok (.cwOor 300, []) ∧
  decodeSymbol (.codeword 9 .awaitFirst 257) [true, false, false, false, false, false, false, false, true] =
    .ok (.cwOor 257, []) ∧
  decodeSymbol .command [false, true, false] = .ok (.startCompressMonitored, []) ∧
  decodeSymbol .command [false, true, true] = .ok (.startReserved, []) ∧
  decodeSymbol .command [true, false, true] = .ok (.startExpand 1, [])

/-- The conditions of the class table: for either state in which a codeword is read each class holds exactly under its
row's condition, and with CC = 65536 the one-ahead and out-of-range classes are empty (R65, R69, decision D12). -/
def Obligations.CodewordClassConditions : Prop :=
  ∀ (cc : Nat) (c : Codeword), 257 ≤ cc →
    (classify .awaitFirst cc c = some .cwEof ↔ c.toNat = 256) ∧
    (classify .awaitFirst cc c = some (.cwLit (c.setWidth 8)) ↔ c.toNat < 256) ∧
    (classify .awaitFirst cc c = some (.cwOor c) ↔ 257 ≤ c.toNat) ∧
    (classify .running cc c = some .cwEof ↔ c.toNat = 256) ∧
    (classify .running cc c = some (.cwLit (c.setWidth 8)) ↔ c.toNat < 256) ∧
    (classify .running cc c = some (.cwRef c) ↔ 257 ≤ c.toNat ∧ c.toNat < cc) ∧
    (classify .running cc c = some (.cwKwkwk c) ↔ c.toNat = cc) ∧
    (classify .running cc c = some (.cwOor c) ↔ cc < c.toNat) ∧
    (cc = 65536 → classify .running cc c ≠ some (.cwKwkwk c) ∧ classify .running cc c ≠ some (.cwOor c))

/-- Stream bit `p` is bit `7 - (p mod 8)` of byte `p div 8`, for the bits of a byte stream and for the bytes packed from
a bit sequence (R45, decision D3, notes/assumptions/17.md). -/
def Obligations.StreamBitOfByte : Prop :=
  (∀ (bytes : List Byte) (p : Nat), p < 8 * bytes.length →
    ∃ b, bytes[p / 8]? = some b ∧ (unpackBytes bytes)[p]? = some (b.getLsbD (7 - p % 8))) ∧
  (∀ (bits : Bits) (p : Nat), p < bits.length →
    ∃ b, (packBits bits)[p / 8]? = some b ∧ bits[p]? = some (b.getLsbD (7 - p % 8)))

/-! ## What a step runs -/

/-- A host transaction that waits is taken by the next step: a CMD word runs the instruction it decodes to, STATUS runs
STATUS (R70, R166 to R168). The request slot is the model's own (notes/assumptions/4.md). -/
def Obligations.StepTakesTheHostCommand : Prop :=
  ∀ (s : State) (cmd : BitVec 3),
    (s.request = some (.start cmd) → step s = exec (decodeCmd cmd) { s with request := none }) ∧
    (s.request = some .status → step s = exec .status { s with request := none })

/-- When the bits at RP decode to a codeword instruction, a Decoder in progress runs exactly it, with RP past its W bits
(R67, R142). -/
def Obligations.StepRunsDecodedCodeword : Prop :=
  ∀ (s : State) (i : Instr) (rest : Bits), s.request = none → s.dir = .dec → s.st ≠ .halted →
    decodeSymbol (.codeword s.w s.st s.cc) (s.inbits.drop s.rp) = .ok (i, rest) →
    step s = exec i { s with rp := s.rp + s.w }

/-- Without a host transaction: an Encoder in Running has exactly one enabled operation, ENC.step if CUR < N, ENC.eof if
CUR == N (R127); a Decoder's is DEC.first in AwaitFirst and DEC.next in Running (R142). The step is that operation's,
with nothing around it. In Halted there is none, and the model's step is stuck (notes/assumptions/6.md). -/
def Obligations.StepRunsTheEnabledOperation : Prop :=
  ∀ s : State, s.request = none →
    (s.dir = .enc → s.st = .running →
      (s.cur < s.input.length → step s = exec .encStep s) ∧ (s.cur = s.input.length → step s = exec .encEof s)) ∧
    (s.dir = .dec →
      (s.st = .awaitFirst → step s = exec .decFirst s) ∧ (s.st = .running → step s = exec .decNext s)) ∧
    (s.st = .halted → step s = .fault .haltedNoRequest)

/-! ## Power-on, START, STATUS (spec/10_state.md section 8, spec/45_mode_selection_and_control.md) -/

/-- After power-on ST = Halted, ERR = NONE, ERRINFO = 0 (R39, decision D11: the values the spec gives). -/
def Obligations.PowerOnState : Prop :=
  State.reset.st = .halted ∧ State.reset.err = .none ∧ State.reset.errinfo = 0

/-- ENC.start and START(0, mode) in Halted load every register of the Encoder as R40 says and write the tag, and change
nothing else; in any other state they are refused (R126, R166, R169). That the Decoder's registers TAB, PRIOR, INBITS,
RP and OUTB are unchanged too is the model's choice (notes/assumptions/22.md). -/
def Obligations.CompressStartLoads : Prop :=
  ∀ (s : State) (m : Mode) (i : Instr),
    (i = .encStart m ∨ (m = .none ∧ i = .startCompressNone) ∨ (m = .periodic ∧ i = .startCompressPeriodic) ∨
      (m = .monitored ∧ i = .startCompressMonitored)) →
    (s.st = .halted → exec i s = .next { s with
      dir := .enc, mode := m, err := .none, errinfo := 0, dict := (dictInit s).dict, w := 9, l := 512, cc := 257
      cur := 0, u := 0, c := 0, bu := 0, bc := 0, mon := false
      outbits := bitsOfNat 8 (tagOf m).toNat, st := .running }) ∧
    (s.st ≠ .halted → exec i s = .refused .startWhileRunning)

/-- DEC.start and START(1, -) in Halted, on a stream that begins with one of the three tags, load every register of the
Decoder as R40 says and change nothing else; in any other state they are refused (R141, R167, R169). That the Encoder's
registers IN, CUR, DICT and OUTBITS are unchanged too is the model's choice (notes/assumptions/22.md). -/
def Obligations.ExpandStartLoads : Prop :=
  ∀ (s : State) (m : Mode) (rest : Bits) (x : BitVec 2) (i : Instr), (i = .decStart ∨ i = .startExpand x) →
    (s.st = .halted → s.inbits = bitsOfNat 8 (tagOf m).toNat ++ rest → exec i s = .next { s with
      dir := .dec, mode := m, err := .none, errinfo := 0, outb := [], rp := 8, tab := (tabInit s).tab
      w := 9, l := 512, cc := 257, prior := none, u := 0, c := 0, bu := 0, bc := 0, mon := false
      st := .awaitFirst }) ∧
    (s.st ≠ .halted → exec i s = .refused .startWhileRunning)

/-- The two errors of DEC.start (R141, R174, R175, R179): fewer than 8 bits give TruncatedStream with ERRINFO = 8, an
illegal tag gives MalformedModeTag with the tag; ST is Halted, OUTB empty, DIR = DEC, RP as the read left it, and INBITS
is unchanged. That the Encoder's registers IN, CUR, DICT and OUTBITS are unchanged too is the model's choice
(notes/assumptions/22.md). What the other registers hold is unspecified (notes/assumptions/3.md). -/
def Obligations.ExpandStartErrors : Prop :=
  ∀ (s : State) (x : BitVec 2) (i : Instr), (i = .decStart ∨ i = .startExpand x) → s.st = .halted →
    (s.inbits.length < 8 → ∃ t, exec i s = .next t ∧ t.err = .truncatedStream ∧ t.errinfo = 8 ∧ t.rp = 0 ∧
      t.st = .halted ∧ t.dir = .dec ∧ t.outb = [] ∧ t.input = s.input ∧ t.cur = s.cur ∧ t.dict = s.dict ∧
      t.outbits = s.outbits ∧ t.inbits = s.inbits ∧ t.request = s.request ∧ t.result = s.result) ∧
    (∀ (tag : Byte) (rest : Bits), s.inbits = bitsOfNat 8 tag.toNat ++ rest → (∀ m, tag ≠ tagOf m) →
      ∃ t, exec i s = .next t ∧ t.err = .malformedModeTag ∧ t.errinfo = tag.setWidth 16 ∧ t.rp = 8 ∧
      t.st = .halted ∧ t.dir = .dec ∧ t.outb = [] ∧ t.input = s.input ∧ t.cur = s.cur ∧ t.dict = s.dict ∧
      t.outbits = s.outbits ∧ t.inbits = s.inbits ∧ t.request = s.request ∧ t.result = s.result)

/-- CMD 0b011 is refused in every state (R10, R70). -/
def Obligations.ReservedCommandIsRefused : Prop :=
  ∀ s : State, exec .startReserved s = .refused .reservedMode ∧
    (s.request = some (.start 0b011) → step s = .refused .reservedMode)

/-- STATUS answers ST, ERR and ERRINFO by their numbers (R20, R21) and has no side effect, in any state (R168). -/
def Obligations.StatusReportsOnly : Prop :=
  (∀ s : State, exec .status s = .next { s with result := .status s.st.code s.err.code s.errinfo }) ∧
  St.halted.code = 0 ∧ St.awaitFirst.code = 1 ∧ St.running.code = 2 ∧
  Err.none.code = 0 ∧ Err.malformedModeTag.code = 1 ∧ Err.truncatedStream.code = 2 ∧
  Err.codewordOutOfRange.code = 3

/-- Nothing survives from an earlier run: two halted instances with the same input end a compress start with the same
Encoder registers, and with the same stream, if its tag is legal, an expand start with the same Decoder registers
(R192). -/
def Obligations.StartForgetsEarlierRun : Prop :=
  ∀ (s s' : State) (m : Mode), s.st = .halted → s'.st = .halted →
    (s.input = s'.input → ∃ t t', exec (.encStart m) s = .next t ∧ exec (.encStart m) s' = .next t' ∧
      t.dir = t'.dir ∧ t.mode = t'.mode ∧ t.st = t'.st ∧ t.err = t'.err ∧ t.errinfo = t'.errinfo ∧ t.w = t'.w ∧
      t.l = t'.l ∧ t.cc = t'.cc ∧ t.input = t'.input ∧ t.cur = t'.cur ∧ t.dict = t'.dict ∧ t.u = t'.u ∧ t.c = t'.c ∧
      t.bu = t'.bu ∧ t.bc = t'.bc ∧ t.mon = t'.mon ∧ t.outbits = t'.outbits) ∧
    (∀ rest, s.inbits = bitsOfNat 8 (tagOf m).toNat ++ rest → s'.inbits = s.inbits →
      ∃ t t', exec .decStart s = .next t ∧ exec .decStart s' = .next t' ∧
      t.dir = t'.dir ∧ t.mode = t'.mode ∧ t.st = t'.st ∧ t.err = t'.err ∧ t.errinfo = t'.errinfo ∧ t.w = t'.w ∧
      t.l = t'.l ∧ t.cc = t'.cc ∧ t.tab = t'.tab ∧ t.prior = t'.prior ∧ t.u = t'.u ∧ t.c = t'.c ∧ t.bu = t'.bu ∧
      t.bc = t'.bc ∧ t.mon = t'.mon ∧ t.inbits = t'.inbits ∧ t.rp = t'.rp ∧ t.outb = t'.outb)

/-! ## The bit channel and the byte buffers (spec/20_memory.md) -/

/-- BitWrite(v, n) appends `v[n-1], ..., v[0]` to OUTBITS, in that order, and changes nothing else (R42). That the
operation, run by itself, acts in any DIR and ST is the model's choice (notes/assumptions/23.md). -/
def Obligations.BitWriteAppends : Prop :=
  ∀ (s : State) (v : Codeword) (n : Nat), 1 ≤ n → n ≤ 16 →
    ∃ bs : Bits, exec (.bitWrite v n) s = .next { s with outbits := s.outbits ++ bs } ∧ bs.length = n ∧
      ∀ j, j < n → bs[j]? = some (v.getLsbD (n - 1 - j))

/-- BitRead(n) answers the integer whose bit `n-1-i` is `INBITS[RP + i]` and advances RP by n; with fewer than n bits
left it answers Exhausted and leaves RP. Nothing else changes (R43; a short remainder is decision D14; the result port
is notes/assumptions/7.md). That the operation, run by itself, acts in any DIR and ST is the model's choice
(notes/assumptions/23.md). -/
def Obligations.BitReadTakes : Prop :=
  ∀ (s : State) (n : Nat), 1 ≤ n → n ≤ 16 →
    (s.rp + n ≤ s.inbits.length →
      ∃ v : Codeword, exec (.bitRead n) s = .next { s with rp := s.rp + n, result := .codeword v } ∧
        v.toNat < 2 ^ n ∧ ∀ j, j < n → s.inbits[s.rp + j]? = some (v.getLsbD (n - 1 - j))) ∧
    (s.inbits.length < s.rp + n → exec (.bitRead n) s = .next { s with result := .exhausted })

/-- BitClose appends the zero bits, at most seven, that make OUTBITS a whole number of bytes (R44). InByte(i) answers
byte i of IN with no side effect (R48). OutBytes appends to OUTB in string order (R49). Nothing else changes. The zero
pad is decision D4, the result port notes/assumptions/7.md. That the operations, run by themselves, act in any DIR and
ST is the model's choice (notes/assumptions/23.md). -/
def Obligations.CloseAndByteTransfers : Prop :=
  ∀ s : State,
    (∃ k, k < 8 ∧ (s.outbits.length + k) % 8 = 0 ∧
      exec .bitClose s = .next { s with outbits := s.outbits ++ List.replicate k false }) ∧
    (∀ (i : Nat) (b : Byte), s.input[i]? = some b → exec (.inByte i) s = .next { s with result := .byte b }) ∧
    (∀ bytes : Str, 1 ≤ bytes.length → exec (.outBytes bytes) s = .next { s with outb := s.outb ++ bytes })

/-- A value written by BitWrite(v, n) is what BitRead(n) answers at the same stream position (R42, R43). That the
operations, run by themselves, act in any DIR and ST is the model's choice (notes/assumptions/23.md). -/
def Obligations.ReadBackOfWrite : Prop :=
  ∀ (s t d : State) (v : Codeword) (n : Nat) (more : Bits), 1 ≤ n → n ≤ 16 → v.toNat < 2 ^ n →
    exec (.bitWrite v n) s = .next t → d.inbits = t.outbits ++ more → d.rp = s.outbits.length →
    exec (.bitRead n) d = .next { d with rp := t.outbits.length, result := .codeword v }

/-- TAG.write(mode) appends the eight bits of the mode's tag, and nothing else changes (R62, R162, decision D1). That
the operation, run by itself, acts in any DIR and ST is the model's choice (notes/assumptions/23.md). -/
def Obligations.TagWriteAppendsTheTag : Prop :=
  ∀ s : State,
    exec (.tagWrite .none) s =
      .next { s with outbits := s.outbits ++ [false, true, true, false, true, true, true, false] } ∧
    exec (.tagWrite .periodic) s =
      .next { s with outbits := s.outbits ++ [false, true, true, true, false, false, true, false] } ∧
    exec (.tagWrite .monitored) s =
      .next { s with outbits := s.outbits ++ [false, true, true, false, true, true, false, true] }

/-- A tag symbol, met inside DEC.start where ST is still Halted, selects MODE and changes nothing else, or raises
MalformedModeTag with the tag (R163, R174, R179); in a run none of the four is enabled (R161). That a tag symbol run by
itself is enabled exactly while ST is Halted, whatever DIR is, and writes no DIR, is the model's choice
(notes/assumptions/19.md). -/
def Obligations.TagSymbols : Prop :=
  ∀ s : State,
    (s.st = .halted →
      exec .tagNone s = .next { s with mode := .none } ∧
      exec .tagPeriodic s = .next { s with mode := .periodic } ∧
      exec .tagMonitored s = .next { s with mode := .monitored } ∧
      ∀ tag : Byte, (∀ m, tag ≠ tagOf m) → ∃ t, exec (.tagInvalid tag) s = .next t ∧ t.err = .malformedModeTag ∧
        t.errinfo = tag.setWidth 16 ∧ t.st = .halted ∧ t.dir = s.dir ∧ t.input = s.input ∧ t.cur = s.cur ∧
        t.dict = s.dict ∧ t.outbits = s.outbits ∧ t.inbits = s.inbits ∧ t.rp = s.rp ∧ t.outb = s.outb ∧
        t.request = s.request ∧ t.result = s.result) ∧
    (s.st ≠ .halted →
      exec .tagNone s = .refused .notEnabled ∧ exec .tagPeriodic s = .refused .notEnabled ∧
      exec .tagMonitored s = .refused .notEnabled ∧
      ∀ tag : Byte, (∀ m, tag ≠ tagOf m) → exec (.tagInvalid tag) s = .refused .notEnabled)

/-- TAG.read takes 8 bits and maps them to MODE; it raises MalformedModeTag on any other value and TruncatedStream if 8
bits are not available (R163, R174, R175, decision D14); that it is enabled while ST is Halted, whatever DIR is, and
writes no DIR, is the model's choice (notes/assumptions/19.md). -/
def Obligations.TagReadSelectsTheMode : Prop :=
  ∀ s : State, s.st = .halted →
    (∀ (m : Mode) (rest : Bits), s.inbits.drop s.rp = bitsOfNat 8 (tagOf m).toNat ++ rest →
      exec .tagRead s = .next { s with rp := s.rp + 8, mode := m }) ∧
    (∀ (tag : Byte) (rest : Bits), s.inbits.drop s.rp = bitsOfNat 8 tag.toNat ++ rest → (∀ m, tag ≠ tagOf m) →
      ∃ t, exec .tagRead s = .next t ∧ t.err = .malformedModeTag ∧ t.errinfo = tag.setWidth 16 ∧ t.st = .halted ∧
        t.rp = s.rp + 8 ∧ t.dir = s.dir ∧ t.input = s.input ∧ t.cur = s.cur ∧ t.dict = s.dict ∧ t.outbits = s.outbits ∧
        t.inbits = s.inbits ∧ t.outb = s.outb ∧ t.request = s.request ∧ t.result = s.result) ∧
    ((s.inbits.drop s.rp).length < 8 →
      ∃ t, exec .tagRead s = .next t ∧ t.err = .truncatedStream ∧ t.errinfo = 8 ∧ t.st = .halted ∧ t.rp = s.rp ∧
        t.dir = s.dir ∧ t.input = s.input ∧ t.cur = s.cur ∧ t.dict = s.dict ∧ t.outbits = s.outbits ∧
        t.inbits = s.inbits ∧ t.outb = s.outb ∧ t.request = s.request ∧ t.result = s.result)

/-! ## PrefixDictionary and CodeTable (spec/40_dictionary_and_table.md) -/

/-- DICT.init makes DICT exactly the map `<b> -> b` of the 256 single bytes (R81); TAB.init makes `TAB[b] = <b>` for b <
256 with no value elsewhere (R87). Both stores are then in canonical form, and no other state changes. That the
operations, run by themselves, act in any DIR and ST is the model's choice (notes/assumptions/23.md). The canonical form
is the model's (notes/assumptions/16.md). -/
def Obligations.StoreInitHoldsTheBytes : Prop :=
  ∀ s : State,
    (∃ t, exec .dictInit s = .next t ∧ t = { s with dict := t.dict } ∧
      (∀ b : Byte, dictGet t [b] = some (b.setWidth 16)) ∧ (∀ k : Str, k.length ≠ 1 → dictGet t k = none) ∧
      assocWf strLt t.dict) ∧
    (∃ t, exec .tabInit s = .next t ∧ t = { s with tab := t.tab } ∧
      (∀ b : Byte, tabGet t b.toNat = some [b]) ∧ (∀ i, 256 ≤ i → tabGet t i = none) ∧ assocWf idxLt t.tab)

/-- DICT.longestPrefixOf(i) answers the longest key that is a prefix of `IN[i:]`, at least one byte, never past the end
of the input; the state is otherwise unchanged (R82). The key set is prefix-closed and holds the single bytes (R36). The
result port is notes/assumptions/7.md. That the operation, run by itself, acts in any DIR and ST is the model's choice
(notes/assumptions/23.md). -/
def Obligations.LongestPrefixIsTheLongestKey : Prop :=
  ∀ (s : State) (i : Nat), i < s.input.length → (∀ b : Byte, (dictGet s [b]).isSome) →
    (∀ (k : Str) (b : Byte), k ≠ [] → (dictGet s (k ++ [b])).isSome → (dictGet s k).isSome) →
    ∃ t, 1 ≤ t ∧ i + t ≤ s.input.length ∧
      exec (.dictLongestPrefixOf i) s = .next { s with result := .matched t ((s.input.drop i).take t) } ∧
      (dictGet s ((s.input.drop i).take t)).isSome ∧
      ∀ t', t < t' → i + t' ≤ s.input.length → dictGet s ((s.input.drop i).take t') = none

/-- DICT.get(s) answers the key's codeword and changes nothing else (R83). DICT.insert(s, b) with CC < L: `DICT[s ++
<b>] <- CC; CC <- CC + 1`, every other key unchanged and the canonical form kept (R84). The result port is
notes/assumptions/7.md. That the operations, run by themselves, act in any DIR and ST is the model's choice
(notes/assumptions/23.md). The canonical form is the model's (notes/assumptions/16.md). -/
def Obligations.DictGetAndInsert : Prop :=
  ∀ (s : State) (k : Str) (b : Byte) (c : Codeword), dictGet s k = some c →
    exec (.dictGet k) s = .next { s with result := .codeword c } ∧
    (dictGet s (k ++ [b]) = none → s.cc < s.l →
      ∃ t, exec (.dictInsert k b) s = .next t ∧ t = { s with dict := t.dict, cc := s.cc + 1 } ∧
      dictGet t (k ++ [b]) = some (BitVec.ofNat 16 s.cc) ∧ (∀ k', k' ≠ k ++ [b] → dictGet t k' = dictGet s k') ∧
      (assocWf strLt s.dict → assocWf strLt t.dict))

/-- TAB.lookup(c), c < CC and not 256, answers `<c>` for c < 256, in every state of the table, and `TAB[c]` above it;
nothing else changes (R88; that a literal's value does not depend on TAB is notes/assumptions/13.md). That the
operation, run by itself, acts in any DIR and ST is the model's choice (notes/assumptions/23.md). -/
def Obligations.TabLookupAnswersTheValue : Prop :=
  ∀ (s : State) (c : Codeword), c.toNat < s.cc →
    (c.toNat < 256 → exec (.tabLookup c) s = .next { s with result := .string [c.setWidth 8] }) ∧
    (∀ v, 257 ≤ c.toNat → tabGet s c.toNat = some v → exec (.tabLookup c) s = .next { s with result := .string v })

/-- TAB.append(s), |s| >= 2, with CC < L: `TAB[CC] <- s; CC <- CC + 1`, every other entry unchanged and the canonical
form kept (R90). That the operation, run by itself, acts in any DIR and ST is the model's choice
(notes/assumptions/23.md). The canonical form is the model's (notes/assumptions/16.md). -/
def Obligations.TabAppendAssignsTheNextIndex : Prop :=
  ∀ (s : State) (v : Str), 2 ≤ v.length → s.cc < s.l →
    ∃ t, exec (.tabAppend v) s = .next t ∧ t = { s with tab := t.tab, cc := s.cc + 1 } ∧
      tabGet t s.cc = some v ∧ (∀ i, i ≠ s.cc → tabGet t i = tabGet s i) ∧
      (assocWf idxLt s.tab → assocWf idxLt t.tab)

/-- A full store takes no entry: with CC = L or beyond, DICT.insert and TAB.append by themselves are outside their
contract and refused, the model's choice (notes/assumptions/12.md); the state machines' guard `CC < L` never calls them
then (R94, R97). That the operations, run by themselves, act in any DIR and ST is the model's choice
(notes/assumptions/23.md). -/
def Obligations.FullStoresTakeNoEntry : Prop :=
  ∀ s : State, s.l ≤ s.cc →
    (∀ (k : Str) (b : Byte) (c : Codeword), dictGet s k = some c →
      exec (.dictInsert k b) s = .refused .insertOutsideContract) ∧
    (∀ v : Str, 2 ≤ v.length → exec (.tabAppend v) s = .refused .insertOutsideContract) ∧
    (∀ found : Str, (encInsert found s).dict = s.dict ∧ (encInsert found s).cc = s.cc) ∧
    (∀ (prior : Str) (first : Byte), (decAppend prior first s).tab = s.tab ∧ (decAppend prior first s).cc = s.cc)

/-! ## WidthController (spec/41_width_controller.md) -/

/-- WC.init: `W <- 9; L <- 512`, nothing else (R96). WC.grow: `W += 1, L *= 2`, no-op if W is already at 16; nothing
else changes (R98). That the operations, run by themselves, act in any DIR and ST is the model's choice
(notes/assumptions/23.md). -/
def Obligations.WidthInitAndGrow : Prop :=
  ∀ s : State, exec .wcInit s = .next { s with w := 9, l := 512 } ∧
    (s.w < 16 → exec .wcGrow s = .next { s with w := s.w + 1, l := s.l * 2 }) ∧
    (16 ≤ s.w → exec .wcGrow s = .next s)

/-- WC.isFull and WC.shouldGrow answer the tests on CC, one early on the Decoder's side, and change nothing else (R97
form (b), R100; the result port is notes/assumptions/7.md). That the operations, run by themselves, act in any DIR and
ST is the model's choice (notes/assumptions/23.md). -/
def Obligations.FullnessTests : Prop :=
  ∀ s : State,
    exec (.wcIsFull .enc) s = .next { s with result := .bool (decide (s.cc = s.l)) } ∧
    exec (.wcIsFull .dec) s = .next { s with result := .bool (decide (s.cc + 1 = s.l)) } ∧
    exec (.wcShouldGrow .enc) s = .next { s with result := .bool (decide (s.cc = s.l ∧ s.w < 16)) } ∧
    exec (.wcShouldGrow .dec) s = .next { s with result := .bool (decide (s.cc + 1 = s.l ∧ s.w < 16)) }

/-- WC.growthCheck grows exactly when the trigger holds, and after it, L being positive, the trigger does not hold: at
most one growth a step (R101). That the operation, run by itself, acts in any DIR and ST is the model's choice
(notes/assumptions/23.md). -/
def Obligations.GrowthCheckGrowsOnce : Prop :=
  ∀ (s : State) (d : Dir),
    ((s.cc + lag d = s.l ∧ s.w < 16) →
      exec (.wcGrowthCheck d) s = .next { s with w := s.w + 1, l := s.l * 2 }) ∧
    (¬ (s.cc + lag d = s.l ∧ s.w < 16) → exec (.wcGrowthCheck d) s = .next s) ∧
    ∀ t, 0 < s.l → exec (.wcGrowthCheck d) s = .next t → ¬ (t.cc + lag d = t.l ∧ t.w < 16)

/-! ## ResetPolicy and ratio tracker (spec/42_reset_policy.md) -/

/-- RP.reset restores the start values of the entry store, W, L, CC and the tracker, and on the Decoder PRIOR and ST;
nothing else changes (R108; that all four tracker parts are zeroed is decision D8). That the operation, run by itself,
acts in any DIR and ST is the model's choice (notes/assumptions/23.md). -/
def Obligations.PolicyResetRestoresTheStart : Prop :=
  ∀ s : State,
    exec (.rpReset .enc) s = .next { s with
      dict := (dictInit s).dict, w := 9, l := 512, cc := 257, u := 0, c := 0, bu := 0, bc := 0, mon := false } ∧
    exec (.rpReset .dec) s = .next { s with
      tab := (tabInit s).tab, w := 9, l := 512, cc := 257, u := 0, c := 0, bu := 0, bc := 0, mon := false
      prior := none, st := .awaitFirst }

/-- RP.check.none does nothing (R109); RP.check does what MODE's variant does (R107). That the operations, run by
themselves, act in any DIR and ST is the model's choice (notes/assumptions/23.md). -/
def Obligations.PolicyCheckFollowsTheMode : Prop :=
  ∀ (s : State) (d : Dir),
    exec .rpCheckNone s = .next s ∧
    (s.mode = .none → exec (.rpCheck d) s = .next s) ∧
    (s.mode = .periodic →
      ∃ t, exec (.rpCheck d) s = .next t ∧ exec (.rpCheckPeriodic d) s = .next t) ∧
    (s.mode = .monitored →
      ∃ t, exec (.rpCheck d) s = .next t ∧ exec (.rpCheckMonitored d) s = .next t)

/-- RP.check.periodic resets when the table is full, one early on the Decoder, at W = 16, and otherwise does nothing
(R110, decision D15). That the operation, run by itself, acts in any DIR and ST is the model's choice
(notes/assumptions/23.md). -/
def Obligations.PeriodicCheckResetsWhenFull : Prop :=
  ∀ (s : State) (d : Dir),
    ((s.cc + lag d = s.l ∧ s.w = 16) →
      ∃ t, exec (.rpCheckPeriodic d) s = .next t ∧ exec (.rpReset d) s = .next t) ∧
    (¬ (s.cc + lag d = s.l ∧ s.w = 16) → exec (.rpCheckPeriodic d) s = .next s)

/-- RP.check.monitored: while MON = 1 it resets exactly when `10 * BU * C >= 11 * BC * U`; while MON = 0 it captures
(BU, BC) = (U, C) and sets MON exactly when full at W = 16; otherwise nothing (R111, R115, R116, decisions D6 and D15).
That the operation, run by itself, acts in any DIR and ST is the model's choice (notes/assumptions/23.md). -/
def Obligations.MonitoredCheckCapturesThenResets : Prop :=
  ∀ (s : State) (d : Dir),
    (s.mon = true →
      (11 * s.bc * s.u ≤ 10 * s.bu * s.c →
        ∃ t, exec (.rpCheckMonitored d) s = .next t ∧ exec (.rpReset d) s = .next t) ∧
      (10 * s.bu * s.c < 11 * s.bc * s.u → exec (.rpCheckMonitored d) s = .next s)) ∧
    (s.mon = false →
      ((s.cc + lag d = s.l ∧ s.w = 16) →
        exec (.rpCheckMonitored d) s = .next { s with bu := s.u, bc := s.c, mon := true }) ∧
      (¬ (s.cc + lag d = s.l ∧ s.w = 16) → exec (.rpCheckMonitored d) s = .next s))

/-- RT.update(t), t >= 1, adds 8t to U and W to C in mode MONITORED and does nothing in the other modes (R114, decisions
D5 and D17). RT.capture: `BU <- U; BC <- C; MON <- 1`, nothing else (R115). That the operations, run by themselves, act
in any DIR and ST is the model's choice (notes/assumptions/23.md). -/
def Obligations.TrackerUpdateAndCapture : Prop :=
  ∀ s : State, exec .rtCapture s = .next { s with bu := s.u, bc := s.c, mon := true } ∧
    ∀ t : Nat, 1 ≤ t →
      (s.mode = .monitored → exec (.rtUpdate t) s = .next { s with u := s.u + 8 * t, c := s.c + s.w }) ∧
      (s.mode ≠ .monitored → exec (.rtUpdate t) s = .next s)

/-- RT.degraded answers `10 * BU * C >= 11 * BC * U` and changes nothing else; where all four are positive, which is so
when it is evaluated, that is baseline / currentRatio >= 11 / 10 with baseline = BU / BC and currentRatio = U / C as
exact rationals (R116, R118, decision D6, notes/assumptions/11.md). That the operation, run by itself, acts in any DIR
and ST is the model's choice (notes/assumptions/23.md). -/
def Obligations.DegradedIsTheRationalTest : Prop :=
  ∀ s : State,
    exec .rtDegraded s = .next { s with result := .bool (decide (10 * s.bu * s.c ≥ 11 * s.bc * s.u)) } ∧
    (0 < s.u → 0 < s.c → 0 < s.bu → 0 < s.bc →
      (10 * s.bu * s.c ≥ 11 * s.bc * s.u ↔ (11 : ℚ) / 10 ≤ ((s.bu : ℚ) / s.bc) / ((s.u : ℚ) / s.c)))

/-! ## Encoder (spec/43_encoder.md) -/

/-- ENC.step writes the longest match's codeword at the W of the step's begin, then inserts, grows and consults the
policy, in that order, and last advances CUR past the match (R128, R54). -/
def Obligations.EncStepInOrder : Prop :=
  ∀ (s : State) (found : Str) (code : Codeword), s.dir = .enc → s.st = .running →
    longestPrefix s.cur s = some found → dictGet s found = some code →
    exec .encStep s = .next { rpCheck .enc (encBeforePolicy found code s) with cur := s.cur + found.length }

/-- The frame of ENC.step: no register of the Decoder, no control register and no input changes; in modes NONE and
PERIODIC the tracker is not counted; every key but the one inserted keeps its codeword, unless the policy reset, which
leaves the 256 single bytes (R128, R108). -/
def Obligations.EncStepFrame : Prop :=
  ∀ (s t : State) (found : Str), longestPrefix s.cur s = some found → exec .encStep s = .next t →
    t.dir = s.dir ∧ t.mode = s.mode ∧ t.st = s.st ∧ t.err = s.err ∧ t.errinfo = s.errinfo ∧ t.input = s.input ∧
    t.tab = s.tab ∧ t.prior = s.prior ∧ t.inbits = s.inbits ∧ t.rp = s.rp ∧ t.outb = s.outb ∧
    t.request = s.request ∧ t.result = s.result ∧ t.freeCount = s.freeCount ∧
    (s.mode = .none → t.u = s.u ∧ t.c = s.c ∧ t.bu = s.bu ∧ t.bc = s.bc ∧ t.mon = s.mon) ∧
    ((t.dict = (dictInit s).dict ∧ s.mode ≠ .none ∧ t.w = 9 ∧ t.l = 512 ∧ t.cc = 257 ∧ t.u = 0 ∧ t.c = 0 ∧ t.bu = 0 ∧
        t.bc = 0 ∧ t.mon = false) ∨
      ((∀ k, (∀ b, s.input[s.cur + found.length]? = some b → k ≠ found ++ [b]) → dictGet t k = dictGet s k) ∧
        (s.mode = .periodic → t.u = s.u ∧ t.c = s.c ∧ t.bu = s.bu ∧ t.bc = s.bc ∧ t.mon = s.mon)))

/-- ENC.eof at the end of the input writes EOF at the current W, pads with zero bits and halts; nothing else changes
(R131). The zero pad is decision D4 (R44, notes/assumptions/17.md). -/
def Obligations.EncEofEndsTheStream : Prop :=
  ∀ s : State, s.dir = .enc → s.st = .running → s.cur = s.input.length →
    exec .encEof s = .next { s with
      outbits := s.outbits ++ bitsOfNat s.w 256 ++
        List.replicate ((8 - (s.outbits.length + s.w) % 8) % 8) false
      st := .halted }

/-! ## Decoder (spec/44_decoder.md) -/

/-- The first codeword of an epoch, a literal: output, PRIOR and the tracker are written, ST becomes Running, no entry
is defined; the growth and policy checks, with CC = 257, L = 512 and MON = 0, do nothing (R145). So for DEC.first on the
stream and for CW.LIT in AwaitFirst. -/
def Obligations.DecFirstTakesALiteral : Prop :=
  ∀ (s : State) (b : Byte), s.dir = .dec → s.st = .awaitFirst → s.cc = 257 → s.l = 512 → s.mon = false →
    exec (.cwLit b) s = .next { s with
      outb := s.outb ++ [b], prior := some [b], st := .running
      u := if s.mode = .monitored then s.u + 8 else s.u, c := if s.mode = .monitored then s.c + s.w else s.c } ∧
    (∀ rest, 8 ≤ s.w → s.inbits.drop s.rp = bitsOfNat s.w b.toNat ++ rest → exec .decFirst s = .next { s with
      rp := s.rp + s.w, outb := s.outb ++ [b], prior := some [b], st := .running
      u := if s.mode = .monitored then s.u + 8 else s.u, c := if s.mode = .monitored then s.c + s.w else s.c })

/-- A further codeword that is a literal, a reference or the one-ahead codeword: its value is settled with CC as the
step began, `PRIOR ++ <next[0]>` is appended if CC < L, the value is output and becomes PRIOR, the tracker counts, and
the growth check, one early, and the policy check follow (R147). So for the three classes in Running. -/
def Obligations.CodewordClassesInRunning : Prop :=
  ∀ (s : State) (c : Codeword) (p : Str) (first : Byte) (more : Str) (i : Instr), s.dir = .dec → s.st = .running →
    s.prior = some p → codewordValue s c (first :: more) →
    ((c.toNat < 256 ∧ i = .cwLit (c.setWidth 8)) ∨ (257 ≤ c.toNat ∧ c.toNat < s.cc ∧ i = .cwRef c) ∨
      (257 ≤ c.toNat ∧ c.toNat = s.cc ∧ i = .cwKwkwk c)) →
    exec i s = .next (rpCheck .dec (decBeforePolicy p first more s))

/-- The same for DEC.next reading that codeword from the stream at the current W (R143, R147). -/
def Obligations.DecNextTakesAValue : Prop :=
  ∀ (s : State) (c : Codeword) (p : Str) (first : Byte) (more : Str) (rest : Bits), s.dir = .dec → s.st = .running →
    s.prior = some p → codewordValue s c (first :: more) → c.toNat < 2 ^ s.w → 257 ≤ s.cc →
    s.inbits.drop s.rp = bitsOfNat s.w c.toNat ++ rest →
    exec .decNext s = .next (rpCheck .dec (decBeforePolicy p first more { s with rp := s.rp + s.w }))

/-- The one-ahead codeword c == CC outputs PRIOR and its first byte, and unless the policy reset the entry appended at c
is that value, which is the new PRIOR (R147 corner case (a), R148). -/
def Obligations.OneAheadDefinesItsOwnEntry : Prop :=
  ∀ (s : State) (c : Codeword) (p : Byte) (ps : Str), s.dir = .dec → s.st = .running → s.prior = some (p :: ps) →
    257 ≤ c.toNat → c.toNat = s.cc → s.cc < s.l →
    ∃ t, exec (.cwKwkwk c) s = .next t ∧ t.outb = s.outb ++ (p :: ps ++ [p]) ∧
      (t.st = .running → tabGet t c.toNat = some (p :: ps ++ [p]) ∧ t.prior = some (p :: ps ++ [p]) ∧
        t.cc = s.cc + 1)

/-- The frame of the value-carrying codewords in Running and of DEC.next. DEC.next on EOF, exhaustion or an out-of-range
codeword writes ST = Halted, ERR, ERRINFO and RP at most; otherwise, and for the three classes, RP moves by W for
DEC.next alone, and no register of the Encoder, no control register but ST and no host buffer changes; every entry but
the one appended at CC keeps its value, unless the policy reset, which leaves the 256 single bytes; in mode NONE the
tracker is unchanged (R147, R143, R108). -/
def Obligations.DecValueFrame : Prop :=
  ∀ (s t : State) (i : Instr),
    ((∃ b, i = .cwLit b) ∨ (∃ c, i = .cwRef c) ∨ (∃ c, i = .cwKwkwk c) ∨ i = .decNext) →
    s.st = .running → exec i s = .next t →
    (i = .decNext ∧ t = { s with rp := t.rp, err := t.err, errinfo := t.errinfo, st := .halted } ∧
      (t.rp = s.rp ∨ t.rp = s.rp + s.w)) ∨
    t.rp = (if i = .decNext then s.rp + s.w else s.rp) ∧
    t.dir = s.dir ∧ t.mode = s.mode ∧ t.err = s.err ∧ t.errinfo = s.errinfo ∧ t.input = s.input ∧ t.cur = s.cur ∧
    t.dict = s.dict ∧ t.outbits = s.outbits ∧ t.inbits = s.inbits ∧ t.request = s.request ∧
    t.result = s.result ∧ t.freeCount = s.freeCount ∧
    (s.mode = .none → t.u = s.u ∧ t.c = s.c ∧ t.bu = s.bu ∧ t.bc = s.bc ∧ t.mon = s.mon) ∧
    ((t.tab = (tabInit s).tab ∧ s.mode ≠ .none ∧ t.st = .awaitFirst ∧ t.prior = none ∧ t.w = 9 ∧ t.l = 512 ∧
        t.cc = 257 ∧ t.u = 0 ∧ t.c = 0 ∧ t.bu = 0 ∧ t.bc = 0 ∧ t.mon = false) ∨
      (t.st = .running ∧ (∀ j, j ≠ s.cc → tabGet t j = tabGet s j) ∧
        (s.mode = .periodic → t.u = s.u ∧ t.c = s.c ∧ t.bu = s.bu ∧ t.bc = s.bc ∧ t.mon = s.mon)))

/-- A codeword equal to 256 halts the Decoder with success, in AwaitFirst and in Running; only ST and, for the reading
operations, RP change (R146, R202, decision D4). -/
def Obligations.EofCodewordHalts : Prop :=
  ∀ s : State, s.dir = .dec → s.st ≠ .halted →
    exec .cwEof s = .next { s with st := .halted } ∧
    (∀ rest, 256 < 2 ^ s.w → s.inbits.drop s.rp = bitsOfNat s.w 256 ++ rest →
      (s.st = .awaitFirst → exec .decFirst s = .next { s with rp := s.rp + s.w, st := .halted }) ∧
      (s.st = .running → exec .decNext s = .next { s with rp := s.rp + s.w, st := .halted }))

/-- A codeword above CC in Running, or of 257 and more in AwaitFirst, raises CodewordOutOfRange with the codeword: ERR,
ERRINFO and ST are written, RP is past its bits, nothing else changes (R176, R179, decisions D12 and D24). -/
def Obligations.OutOfRangeCodewordRaises : Prop :=
  ∀ (s : State) (c : Codeword), s.dir = .dec → 257 ≤ c.toNat →
    (s.st = .awaitFirst ∨ (s.st = .running ∧ s.cc < c.toNat)) →
    exec (.cwOor c) s = .next { s with err := .codewordOutOfRange, errinfo := c, st := .halted } ∧
    (∀ rest, c.toNat < 2 ^ s.w → s.inbits.drop s.rp = bitsOfNat s.w c.toNat ++ rest →
      (s.st = .awaitFirst → exec .decFirst s =
        .next { s with rp := s.rp + s.w, err := .codewordOutOfRange, errinfo := c, st := .halted }) ∧
      (s.st = .running → exec .decNext s =
        .next { s with rp := s.rp + s.w, err := .codewordOutOfRange, errinfo := c, st := .halted }))

/-- With fewer than W bits left DEC.first and DEC.next raise TruncatedStream(W): ERR, ERRINFO and ST are written, RP and
everything else stay (R143, R175, R179). That a short remainder is an exhausted read is decision D14, that nothing else
changes is decision D24. -/
def Obligations.ExhaustedCodewordRaises : Prop :=
  ∀ s : State, s.dir = .dec → (s.inbits.drop s.rp).length < s.w →
    (s.st = .awaitFirst → exec .decFirst s =
      .next { s with err := .truncatedStream, errinfo := BitVec.ofNat 16 s.w, st := .halted }) ∧
    (s.st = .running → exec .decNext s =
      .next { s with err := .truncatedStream, errinfo := BitVec.ofNat 16 s.w, st := .halted })

/-! ## The machine as a whole -/

/-- The state after power-on meets the invariants (R34 to R36; the registers it leaves open are the model's choice,
notes/assumptions/2.md). While ST = Halted only the canonical form of the stores is asked, which is the model's own
(notes/assumptions/16.md). -/
def Obligations.PowerOnMeetsTheInvariants : Prop := State.reset.Inv

/-- Every step keeps the invariants: width, count, control, tracker and the contents and canonical form of both stores
(R34, R35, R36). The canonical form of the stores is the model's own, no rule's (notes/assumptions/16.md). -/
def Obligations.StepKeepsTheInvariants : Prop :=
  ∀ s t : State, s.Inv → step s = .next t → t.Inv

/-- A run in progress that meets the invariants is never stuck and never refused: every step of the Encoder and of the
Decoder answers a next state (R10, R127, R142, R177). -/
def Obligations.RunInProgressAlwaysSteps : Prop :=
  ∀ s : State, s.Inv → s.request = none → s.st ≠ .halted → ∃ t, step s = .next t

/-- The variant is chosen once, before the first symbol: ENC.start loads MODE and writes its tag, DEC.start loads MODE
from the tag it reads; and no step of a run changes MODE (R161). -/
def Obligations.ModeIsConstantDuringARun : Prop :=
  (∀ (s : State) (m : Mode), s.st = .halted →
    (∃ t, exec (.encStart m) s = .next t ∧ t.mode = m ∧ t.outbits = bitsOfNat 8 (tagOf m).toNat) ∧
    (∀ rest, s.inbits = bitsOfNat 8 (tagOf m).toNat ++ rest → ∃ t, exec .decStart s = .next t ∧ t.mode = m)) ∧
  ∀ s t : State, s.st ≠ .halted → step s = .next t → t.mode = s.mode

/-- During a run OUTBITS and OUTB only grow: what has been written stays written (R42, R49, R201); and DIR, IN and
INBITS stay as they are (R18, R27; that INBITS is the whole stream from the start is notes/assumptions/10.md). -/
def Obligations.WrittenOutputStays : Prop :=
  ∀ s t : State, s.st ≠ .halted → step s = .next t → s.outbits <+: t.outbits ∧ s.outb <+: t.outb ∧
    t.dir = s.dir ∧ t.input = s.input ∧ t.inbits = s.inbits

/-- An Encoder never raises: no step of a compress run writes ERR or ERRINFO (R177). -/
def Obligations.EncoderNeverRaises : Prop :=
  ∀ s t : State, s.dir = .enc → s.st ≠ .halted → step s = .next t → t.err = s.err ∧ t.errinfo = s.errinfo

/-- Errors are precise: a step of a run that records an error leaves every register but ERR, ERRINFO, ST and RP as the
previous step left it, RP past the codeword for CodewordOutOfRange and unmoved for TruncatedStream (R179). -/
def Obligations.ErrorsArePrecise : Prop :=
  ∀ s t : State, s.st ≠ .halted → s.request = none → s.err = .none → step s = .next t → t.err ≠ .none →
    t = { s with err := t.err, errinfo := t.errinfo, st := .halted, rp := t.rp } ∧
    ((t.err = .truncatedStream ∧ t.errinfo = BitVec.ofNat 16 s.w ∧ t.rp = s.rp) ∨
      (t.err = .codewordOutOfRange ∧ t.rp = s.rp + s.w))

/-- Between two resets W never decreases: a step of a run keeps W or raises it by one, or resets to W = 9 with CC = 257
(R34). -/
def Obligations.WidthNeverDecreases : Prop :=
  ∀ s t : State, s.st ≠ .halted → s.request = none → step s = .next t →
    t.w = s.w ∨ t.w = s.w + 1 ∨ (t.w = 9 ∧ t.l = 512 ∧ t.cc = 257 ∧ s.mode ≠ .none)

/-- The transitions of ST during a run: Encoder Running to Running, or to Halted at the end of the input; Decoder
AwaitFirst to Running or Halted, Running to Running, AwaitFirst or Halted (R136, R156). -/
def Obligations.StateTransitions : Prop :=
  ∀ s t : State, s.st ≠ .halted → s.request = none → step s = .next t →
    (s.dir = .enc → s.st = .running ∧ (t.st = .running ∨ (t.st = .halted ∧ s.cur = s.input.length))) ∧
    (s.dir = .dec → s.st = .awaitFirst → t.st = .running ∨ t.st = .halted) ∧
    (s.dir = .dec → s.st = .running →
      t.st = .running ∨ t.st = .halted ∨ (t.st = .awaitFirst ∧ s.mode ≠ .none))

/-- Every step of a run makes progress: the Encoder consumes at least one byte or halts, the Decoder consumes at least
nine bits, all of them there, or halts; so every run ends (R133, R153). -/
def Obligations.EveryStepMakesProgress : Prop :=
  ∀ s t : State, s.Inv → s.request = none → s.st ≠ .halted → step s = .next t →
    (s.dir = .enc → t.st = .halted ∨ (s.cur < t.cur ∧ t.cur ≤ s.input.length)) ∧
    (s.dir = .dec → t.st = .halted ∨ (s.rp + 9 ≤ t.rp ∧ t.rp ≤ s.inbits.length))

/-- A compress run of the empty input gives the tag, EOF at 9 bits and 7 pad bits, and an expand run of that stream
gives the empty output (R131, R145). A run of the single byte b gives the tag, b and EOF, both at width 9, and 6 pad
bits, and an expand run of that stream gives b exactly (R134). The zero pad bits are decision D4 (R44,
notes/assumptions/17.md); the waiting request is the model's form (notes/assumptions/4.md). -/
def Obligations.EmptyAndSingleByteRuns : Prop :=
  ∀ (s : State) (m : Mode), s.st = .halted → s.request = some (.start (0#1 ++ m.code)) →
    (s.input = [] → ∃ e, Host.Core.run core 2 s = .next e ∧ e.st = .halted ∧ e.err = .none ∧
      e.outbits = bitsOfNat 8 (tagOf m).toNat ++ bitsOfNat 9 256 ++ List.replicate 7 false ∧
      ∀ (d : State) (x : BitVec 2), d.st = .halted → d.request = some (.start (1#1 ++ x)) → d.inbits = e.outbits →
        ∃ d', Host.Core.run core 2 d = .next d' ∧ d'.st = .halted ∧ d'.err = .none ∧ d'.outb = []) ∧
    (∀ b, s.input = [b] → ∃ e, Host.Core.run core 3 s = .next e ∧ e.st = .halted ∧ e.err = .none ∧
      e.outbits =
        bitsOfNat 8 (tagOf m).toNat ++ bitsOfNat 9 b.toNat ++ bitsOfNat 9 256 ++ List.replicate 6 false ∧
      ∀ (d : State) (x : BitVec 2), d.st = .halted → d.request = some (.start (1#1 ++ x)) → d.inbits = e.outbits →
        ∃ d', Host.Core.run core 3 d = .next d' ∧ d'.st = .halted ∧ d'.err = .none ∧ d'.outb = [b])

/-- Round trip: a Decoder run on the stream that an Encoder run wrote ends in success with the Encoder's input as its
output, for every input and mode, outside the end-of-stream case of R203 (R154). -/
def Obligations.RoundTrip : Prop :=
  ∀ (m : Mode) (s e d : State) (k : Nat) (x : BitVec 2), s.st = .halted →
    s.request = some (.start (0#1 ++ m.code)) → 1 ≤ k → Host.Core.run core k s = .next e → e.st = .halted →
    ¬ e.endDesync → d.st = .halted → d.request = some (.start (1#1 ++ x)) → d.inbits = e.outbits →
    ∃ j d', 1 ≤ j ∧ Host.Core.run core j d = .next d' ∧ d'.st = .halted ∧ d'.err = .none ∧ d'.outb = s.input
end

