-- ==== Sys2Proof/Laws/State.lean ====
section
/-! SUPPORT. For every update, what it does to each field: the fields it leaves unchanged, and those it sets to a value
that needs no case distinction. A proof cites these instead of unfolding the update. -/

namespace Sys2Proof.Machine

variable (s : State)

/-! bitWrite -/

@[simp] theorem bitWrite_dir (v : Codeword) (n : Nat) : (bitWrite v n s).dir = s.dir := rfl
@[simp] theorem bitWrite_mode (v : Codeword) (n : Nat) : (bitWrite v n s).mode = s.mode := rfl
@[simp] theorem bitWrite_st (v : Codeword) (n : Nat) : (bitWrite v n s).st = s.st := rfl
@[simp] theorem bitWrite_err (v : Codeword) (n : Nat) : (bitWrite v n s).err = s.err := rfl
@[simp] theorem bitWrite_errinfo (v : Codeword) (n : Nat) : (bitWrite v n s).errinfo = s.errinfo := rfl
@[simp] theorem bitWrite_w (v : Codeword) (n : Nat) : (bitWrite v n s).w = s.w := rfl
@[simp] theorem bitWrite_l (v : Codeword) (n : Nat) : (bitWrite v n s).l = s.l := rfl
@[simp] theorem bitWrite_cc (v : Codeword) (n : Nat) : (bitWrite v n s).cc = s.cc := rfl
@[simp] theorem bitWrite_input (v : Codeword) (n : Nat) : (bitWrite v n s).input = s.input := rfl
@[simp] theorem bitWrite_cur (v : Codeword) (n : Nat) : (bitWrite v n s).cur = s.cur := rfl
@[simp] theorem bitWrite_dict (v : Codeword) (n : Nat) : (bitWrite v n s).dict = s.dict := rfl
@[simp] theorem bitWrite_tab (v : Codeword) (n : Nat) : (bitWrite v n s).tab = s.tab := rfl
@[simp] theorem bitWrite_prior (v : Codeword) (n : Nat) : (bitWrite v n s).prior = s.prior := rfl
@[simp] theorem bitWrite_u (v : Codeword) (n : Nat) : (bitWrite v n s).u = s.u := rfl
@[simp] theorem bitWrite_c (v : Codeword) (n : Nat) : (bitWrite v n s).c = s.c := rfl
@[simp] theorem bitWrite_bu (v : Codeword) (n : Nat) : (bitWrite v n s).bu = s.bu := rfl
@[simp] theorem bitWrite_bc (v : Codeword) (n : Nat) : (bitWrite v n s).bc = s.bc := rfl
@[simp] theorem bitWrite_mon (v : Codeword) (n : Nat) : (bitWrite v n s).mon = s.mon := rfl
@[simp] theorem bitWrite_outbits (v : Codeword) (n : Nat) : (bitWrite v n s).outbits = s.outbits ++ bitsOfNat n v.toNat := rfl
@[simp] theorem bitWrite_inbits (v : Codeword) (n : Nat) : (bitWrite v n s).inbits = s.inbits := rfl
@[simp] theorem bitWrite_rp (v : Codeword) (n : Nat) : (bitWrite v n s).rp = s.rp := rfl
@[simp] theorem bitWrite_outb (v : Codeword) (n : Nat) : (bitWrite v n s).outb = s.outb := rfl
@[simp] theorem bitWrite_request (v : Codeword) (n : Nat) : (bitWrite v n s).request = s.request := rfl
@[simp] theorem bitWrite_result (v : Codeword) (n : Nat) : (bitWrite v n s).result = s.result := rfl
@[simp] theorem bitWrite_freeCount (v : Codeword) (n : Nat) : (bitWrite v n s).freeCount = s.freeCount := rfl

/-! bitClose -/

@[simp] theorem bitClose_dir : (bitClose s).dir = s.dir := rfl
@[simp] theorem bitClose_mode : (bitClose s).mode = s.mode := rfl
@[simp] theorem bitClose_st : (bitClose s).st = s.st := rfl
@[simp] theorem bitClose_err : (bitClose s).err = s.err := rfl
@[simp] theorem bitClose_errinfo : (bitClose s).errinfo = s.errinfo := rfl
@[simp] theorem bitClose_w : (bitClose s).w = s.w := rfl
@[simp] theorem bitClose_l : (bitClose s).l = s.l := rfl
@[simp] theorem bitClose_cc : (bitClose s).cc = s.cc := rfl
@[simp] theorem bitClose_input : (bitClose s).input = s.input := rfl
@[simp] theorem bitClose_cur : (bitClose s).cur = s.cur := rfl
@[simp] theorem bitClose_dict : (bitClose s).dict = s.dict := rfl
@[simp] theorem bitClose_tab : (bitClose s).tab = s.tab := rfl
@[simp] theorem bitClose_prior : (bitClose s).prior = s.prior := rfl
@[simp] theorem bitClose_u : (bitClose s).u = s.u := rfl
@[simp] theorem bitClose_c : (bitClose s).c = s.c := rfl
@[simp] theorem bitClose_bu : (bitClose s).bu = s.bu := rfl
@[simp] theorem bitClose_bc : (bitClose s).bc = s.bc := rfl
@[simp] theorem bitClose_mon : (bitClose s).mon = s.mon := rfl
@[simp] theorem bitClose_outbits : (bitClose s).outbits = s.outbits ++ List.replicate ((8 - s.outbits.length % 8) % 8) false := rfl
@[simp] theorem bitClose_inbits : (bitClose s).inbits = s.inbits := rfl
@[simp] theorem bitClose_rp : (bitClose s).rp = s.rp := rfl
@[simp] theorem bitClose_outb : (bitClose s).outb = s.outb := rfl
@[simp] theorem bitClose_request : (bitClose s).request = s.request := rfl
@[simp] theorem bitClose_result : (bitClose s).result = s.result := rfl
@[simp] theorem bitClose_freeCount : (bitClose s).freeCount = s.freeCount := rfl

/-! advance -/

@[simp] theorem advance_dir (n : Nat) : (advance n s).dir = s.dir := rfl
@[simp] theorem advance_mode (n : Nat) : (advance n s).mode = s.mode := rfl
@[simp] theorem advance_st (n : Nat) : (advance n s).st = s.st := rfl
@[simp] theorem advance_err (n : Nat) : (advance n s).err = s.err := rfl
@[simp] theorem advance_errinfo (n : Nat) : (advance n s).errinfo = s.errinfo := rfl
@[simp] theorem advance_w (n : Nat) : (advance n s).w = s.w := rfl
@[simp] theorem advance_l (n : Nat) : (advance n s).l = s.l := rfl
@[simp] theorem advance_cc (n : Nat) : (advance n s).cc = s.cc := rfl
@[simp] theorem advance_input (n : Nat) : (advance n s).input = s.input := rfl
@[simp] theorem advance_cur (n : Nat) : (advance n s).cur = s.cur := rfl
@[simp] theorem advance_dict (n : Nat) : (advance n s).dict = s.dict := rfl
@[simp] theorem advance_tab (n : Nat) : (advance n s).tab = s.tab := rfl
@[simp] theorem advance_prior (n : Nat) : (advance n s).prior = s.prior := rfl
@[simp] theorem advance_u (n : Nat) : (advance n s).u = s.u := rfl
@[simp] theorem advance_c (n : Nat) : (advance n s).c = s.c := rfl
@[simp] theorem advance_bu (n : Nat) : (advance n s).bu = s.bu := rfl
@[simp] theorem advance_bc (n : Nat) : (advance n s).bc = s.bc := rfl
@[simp] theorem advance_mon (n : Nat) : (advance n s).mon = s.mon := rfl
@[simp] theorem advance_outbits (n : Nat) : (advance n s).outbits = s.outbits := rfl
@[simp] theorem advance_inbits (n : Nat) : (advance n s).inbits = s.inbits := rfl
@[simp] theorem advance_rp (n : Nat) : (advance n s).rp = s.rp + n := rfl
@[simp] theorem advance_outb (n : Nat) : (advance n s).outb = s.outb := rfl
@[simp] theorem advance_request (n : Nat) : (advance n s).request = s.request := rfl
@[simp] theorem advance_result (n : Nat) : (advance n s).result = s.result := rfl
@[simp] theorem advance_freeCount (n : Nat) : (advance n s).freeCount = s.freeCount := rfl

/-! outBytes -/

@[simp] theorem outBytes_dir (b : Str) : (outBytes b s).dir = s.dir := rfl
@[simp] theorem outBytes_mode (b : Str) : (outBytes b s).mode = s.mode := rfl
@[simp] theorem outBytes_st (b : Str) : (outBytes b s).st = s.st := rfl
@[simp] theorem outBytes_err (b : Str) : (outBytes b s).err = s.err := rfl
@[simp] theorem outBytes_errinfo (b : Str) : (outBytes b s).errinfo = s.errinfo := rfl
@[simp] theorem outBytes_w (b : Str) : (outBytes b s).w = s.w := rfl
@[simp] theorem outBytes_l (b : Str) : (outBytes b s).l = s.l := rfl
@[simp] theorem outBytes_cc (b : Str) : (outBytes b s).cc = s.cc := rfl
@[simp] theorem outBytes_input (b : Str) : (outBytes b s).input = s.input := rfl
@[simp] theorem outBytes_cur (b : Str) : (outBytes b s).cur = s.cur := rfl
@[simp] theorem outBytes_dict (b : Str) : (outBytes b s).dict = s.dict := rfl
@[simp] theorem outBytes_tab (b : Str) : (outBytes b s).tab = s.tab := rfl
@[simp] theorem outBytes_prior (b : Str) : (outBytes b s).prior = s.prior := rfl
@[simp] theorem outBytes_u (b : Str) : (outBytes b s).u = s.u := rfl
@[simp] theorem outBytes_c (b : Str) : (outBytes b s).c = s.c := rfl
@[simp] theorem outBytes_bu (b : Str) : (outBytes b s).bu = s.bu := rfl
@[simp] theorem outBytes_bc (b : Str) : (outBytes b s).bc = s.bc := rfl
@[simp] theorem outBytes_mon (b : Str) : (outBytes b s).mon = s.mon := rfl
@[simp] theorem outBytes_outbits (b : Str) : (outBytes b s).outbits = s.outbits := rfl
@[simp] theorem outBytes_inbits (b : Str) : (outBytes b s).inbits = s.inbits := rfl
@[simp] theorem outBytes_rp (b : Str) : (outBytes b s).rp = s.rp := rfl
@[simp] theorem outBytes_outb (b : Str) : (outBytes b s).outb = s.outb ++ b := rfl
@[simp] theorem outBytes_request (b : Str) : (outBytes b s).request = s.request := rfl
@[simp] theorem outBytes_result (b : Str) : (outBytes b s).result = s.result := rfl
@[simp] theorem outBytes_freeCount (b : Str) : (outBytes b s).freeCount = s.freeCount := rfl

/-! raise -/

@[simp] theorem raise_dir (e : Err) (i : BitVec 16) : (raise e i s).dir = s.dir := rfl
@[simp] theorem raise_mode (e : Err) (i : BitVec 16) : (raise e i s).mode = s.mode := rfl
@[simp] theorem raise_st (e : Err) (i : BitVec 16) : (raise e i s).st = .halted := rfl
@[simp] theorem raise_err (e : Err) (i : BitVec 16) : (raise e i s).err = e := rfl
@[simp] theorem raise_errinfo (e : Err) (i : BitVec 16) : (raise e i s).errinfo = i := rfl
@[simp] theorem raise_w (e : Err) (i : BitVec 16) : (raise e i s).w = s.w := rfl
@[simp] theorem raise_l (e : Err) (i : BitVec 16) : (raise e i s).l = s.l := rfl
@[simp] theorem raise_cc (e : Err) (i : BitVec 16) : (raise e i s).cc = s.cc := rfl
@[simp] theorem raise_input (e : Err) (i : BitVec 16) : (raise e i s).input = s.input := rfl
@[simp] theorem raise_cur (e : Err) (i : BitVec 16) : (raise e i s).cur = s.cur := rfl
@[simp] theorem raise_dict (e : Err) (i : BitVec 16) : (raise e i s).dict = s.dict := rfl
@[simp] theorem raise_tab (e : Err) (i : BitVec 16) : (raise e i s).tab = s.tab := rfl
@[simp] theorem raise_prior (e : Err) (i : BitVec 16) : (raise e i s).prior = s.prior := rfl
@[simp] theorem raise_u (e : Err) (i : BitVec 16) : (raise e i s).u = s.u := rfl
@[simp] theorem raise_c (e : Err) (i : BitVec 16) : (raise e i s).c = s.c := rfl
@[simp] theorem raise_bu (e : Err) (i : BitVec 16) : (raise e i s).bu = s.bu := rfl
@[simp] theorem raise_bc (e : Err) (i : BitVec 16) : (raise e i s).bc = s.bc := rfl
@[simp] theorem raise_mon (e : Err) (i : BitVec 16) : (raise e i s).mon = s.mon := rfl
@[simp] theorem raise_outbits (e : Err) (i : BitVec 16) : (raise e i s).outbits = s.outbits := rfl
@[simp] theorem raise_inbits (e : Err) (i : BitVec 16) : (raise e i s).inbits = s.inbits := rfl
@[simp] theorem raise_rp (e : Err) (i : BitVec 16) : (raise e i s).rp = s.rp := rfl
@[simp] theorem raise_outb (e : Err) (i : BitVec 16) : (raise e i s).outb = s.outb := rfl
@[simp] theorem raise_request (e : Err) (i : BitVec 16) : (raise e i s).request = s.request := rfl
@[simp] theorem raise_result (e : Err) (i : BitVec 16) : (raise e i s).result = s.result := rfl
@[simp] theorem raise_freeCount (e : Err) (i : BitVec 16) : (raise e i s).freeCount = s.freeCount := rfl

/-! unspecifyStart -/

@[simp] theorem unspecifyStart_dir : (unspecifyStart s).dir = s.dir := rfl
@[simp] theorem unspecifyStart_st : (unspecifyStart s).st = s.st := rfl
@[simp] theorem unspecifyStart_err : (unspecifyStart s).err = s.err := rfl
@[simp] theorem unspecifyStart_errinfo : (unspecifyStart s).errinfo = s.errinfo := rfl
@[simp] theorem unspecifyStart_input : (unspecifyStart s).input = s.input := rfl
@[simp] theorem unspecifyStart_cur : (unspecifyStart s).cur = s.cur := rfl
@[simp] theorem unspecifyStart_dict : (unspecifyStart s).dict = s.dict := rfl
@[simp] theorem unspecifyStart_outbits : (unspecifyStart s).outbits = s.outbits := rfl
@[simp] theorem unspecifyStart_inbits : (unspecifyStart s).inbits = s.inbits := rfl
@[simp] theorem unspecifyStart_rp : (unspecifyStart s).rp = s.rp := rfl
@[simp] theorem unspecifyStart_outb : (unspecifyStart s).outb = s.outb := rfl
@[simp] theorem unspecifyStart_request : (unspecifyStart s).request = s.request := rfl
@[simp] theorem unspecifyStart_result : (unspecifyStart s).result = s.result := rfl

/-! raiseAtStart -/

@[simp] theorem raiseAtStart_dir (e : Err) (i : BitVec 16) : (raiseAtStart e i s).dir = s.dir := rfl
@[simp] theorem raiseAtStart_st (e : Err) (i : BitVec 16) : (raiseAtStart e i s).st = .halted := rfl
@[simp] theorem raiseAtStart_err (e : Err) (i : BitVec 16) : (raiseAtStart e i s).err = e := rfl
@[simp] theorem raiseAtStart_errinfo (e : Err) (i : BitVec 16) : (raiseAtStart e i s).errinfo = i := rfl
@[simp] theorem raiseAtStart_input (e : Err) (i : BitVec 16) : (raiseAtStart e i s).input = s.input := rfl
@[simp] theorem raiseAtStart_cur (e : Err) (i : BitVec 16) : (raiseAtStart e i s).cur = s.cur := rfl
@[simp] theorem raiseAtStart_dict (e : Err) (i : BitVec 16) : (raiseAtStart e i s).dict = s.dict := rfl
@[simp] theorem raiseAtStart_outbits (e : Err) (i : BitVec 16) : (raiseAtStart e i s).outbits = s.outbits := rfl
@[simp] theorem raiseAtStart_inbits (e : Err) (i : BitVec 16) : (raiseAtStart e i s).inbits = s.inbits := rfl
@[simp] theorem raiseAtStart_rp (e : Err) (i : BitVec 16) : (raiseAtStart e i s).rp = s.rp := rfl
@[simp] theorem raiseAtStart_outb (e : Err) (i : BitVec 16) : (raiseAtStart e i s).outb = s.outb := rfl
@[simp] theorem raiseAtStart_request (e : Err) (i : BitVec 16) : (raiseAtStart e i s).request = s.request := rfl
@[simp] theorem raiseAtStart_result (e : Err) (i : BitVec 16) : (raiseAtStart e i s).result = s.result := rfl

/-! answer -/

@[simp] theorem answer_dir (r : Result) : (answer r s).dir = s.dir := rfl
@[simp] theorem answer_mode (r : Result) : (answer r s).mode = s.mode := rfl
@[simp] theorem answer_st (r : Result) : (answer r s).st = s.st := rfl
@[simp] theorem answer_err (r : Result) : (answer r s).err = s.err := rfl
@[simp] theorem answer_errinfo (r : Result) : (answer r s).errinfo = s.errinfo := rfl
@[simp] theorem answer_w (r : Result) : (answer r s).w = s.w := rfl
@[simp] theorem answer_l (r : Result) : (answer r s).l = s.l := rfl
@[simp] theorem answer_cc (r : Result) : (answer r s).cc = s.cc := rfl
@[simp] theorem answer_input (r : Result) : (answer r s).input = s.input := rfl
@[simp] theorem answer_cur (r : Result) : (answer r s).cur = s.cur := rfl
@[simp] theorem answer_dict (r : Result) : (answer r s).dict = s.dict := rfl
@[simp] theorem answer_tab (r : Result) : (answer r s).tab = s.tab := rfl
@[simp] theorem answer_prior (r : Result) : (answer r s).prior = s.prior := rfl
@[simp] theorem answer_u (r : Result) : (answer r s).u = s.u := rfl
@[simp] theorem answer_c (r : Result) : (answer r s).c = s.c := rfl
@[simp] theorem answer_bu (r : Result) : (answer r s).bu = s.bu := rfl
@[simp] theorem answer_bc (r : Result) : (answer r s).bc = s.bc := rfl
@[simp] theorem answer_mon (r : Result) : (answer r s).mon = s.mon := rfl
@[simp] theorem answer_outbits (r : Result) : (answer r s).outbits = s.outbits := rfl
@[simp] theorem answer_inbits (r : Result) : (answer r s).inbits = s.inbits := rfl
@[simp] theorem answer_rp (r : Result) : (answer r s).rp = s.rp := rfl
@[simp] theorem answer_outb (r : Result) : (answer r s).outb = s.outb := rfl
@[simp] theorem answer_request (r : Result) : (answer r s).request = s.request := rfl
@[simp] theorem answer_result (r : Result) : (answer r s).result = r := rfl
@[simp] theorem answer_freeCount (r : Result) : (answer r s).freeCount = s.freeCount := rfl

/-! dictInit -/

@[simp] theorem dictInit_dir : (dictInit s).dir = s.dir := rfl
@[simp] theorem dictInit_mode : (dictInit s).mode = s.mode := rfl
@[simp] theorem dictInit_st : (dictInit s).st = s.st := rfl
@[simp] theorem dictInit_err : (dictInit s).err = s.err := rfl
@[simp] theorem dictInit_errinfo : (dictInit s).errinfo = s.errinfo := rfl
@[simp] theorem dictInit_w : (dictInit s).w = s.w := rfl
@[simp] theorem dictInit_l : (dictInit s).l = s.l := rfl
@[simp] theorem dictInit_cc : (dictInit s).cc = s.cc := rfl
@[simp] theorem dictInit_input : (dictInit s).input = s.input := rfl
@[simp] theorem dictInit_cur : (dictInit s).cur = s.cur := rfl
@[simp] theorem dictInit_tab : (dictInit s).tab = s.tab := rfl
@[simp] theorem dictInit_prior : (dictInit s).prior = s.prior := rfl
@[simp] theorem dictInit_u : (dictInit s).u = s.u := rfl
@[simp] theorem dictInit_c : (dictInit s).c = s.c := rfl
@[simp] theorem dictInit_bu : (dictInit s).bu = s.bu := rfl
@[simp] theorem dictInit_bc : (dictInit s).bc = s.bc := rfl
@[simp] theorem dictInit_mon : (dictInit s).mon = s.mon := rfl
@[simp] theorem dictInit_outbits : (dictInit s).outbits = s.outbits := rfl
@[simp] theorem dictInit_inbits : (dictInit s).inbits = s.inbits := rfl
@[simp] theorem dictInit_rp : (dictInit s).rp = s.rp := rfl
@[simp] theorem dictInit_outb : (dictInit s).outb = s.outb := rfl
@[simp] theorem dictInit_request : (dictInit s).request = s.request := rfl
@[simp] theorem dictInit_result : (dictInit s).result = s.result := rfl
@[simp] theorem dictInit_freeCount : (dictInit s).freeCount = s.freeCount := rfl

/-! dictInsert -/

@[simp] theorem dictInsert_dir (k : Str) (b : Byte) : (dictInsert k b s).dir = s.dir := rfl
@[simp] theorem dictInsert_mode (k : Str) (b : Byte) : (dictInsert k b s).mode = s.mode := rfl
@[simp] theorem dictInsert_st (k : Str) (b : Byte) : (dictInsert k b s).st = s.st := rfl
@[simp] theorem dictInsert_err (k : Str) (b : Byte) : (dictInsert k b s).err = s.err := rfl
@[simp] theorem dictInsert_errinfo (k : Str) (b : Byte) : (dictInsert k b s).errinfo = s.errinfo := rfl
@[simp] theorem dictInsert_w (k : Str) (b : Byte) : (dictInsert k b s).w = s.w := rfl
@[simp] theorem dictInsert_l (k : Str) (b : Byte) : (dictInsert k b s).l = s.l := rfl
@[simp] theorem dictInsert_cc (k : Str) (b : Byte) : (dictInsert k b s).cc = s.cc + 1 := rfl
@[simp] theorem dictInsert_input (k : Str) (b : Byte) : (dictInsert k b s).input = s.input := rfl
@[simp] theorem dictInsert_cur (k : Str) (b : Byte) : (dictInsert k b s).cur = s.cur := rfl
@[simp] theorem dictInsert_dict (k : Str) (b : Byte) : (dictInsert k b s).dict = assocSet strLt s.dict (k ++ [b]) (BitVec.ofNat 16 s.cc) := rfl
@[simp] theorem dictInsert_tab (k : Str) (b : Byte) : (dictInsert k b s).tab = s.tab := rfl
@[simp] theorem dictInsert_prior (k : Str) (b : Byte) : (dictInsert k b s).prior = s.prior := rfl
@[simp] theorem dictInsert_u (k : Str) (b : Byte) : (dictInsert k b s).u = s.u := rfl
@[simp] theorem dictInsert_c (k : Str) (b : Byte) : (dictInsert k b s).c = s.c := rfl
@[simp] theorem dictInsert_bu (k : Str) (b : Byte) : (dictInsert k b s).bu = s.bu := rfl
@[simp] theorem dictInsert_bc (k : Str) (b : Byte) : (dictInsert k b s).bc = s.bc := rfl
@[simp] theorem dictInsert_mon (k : Str) (b : Byte) : (dictInsert k b s).mon = s.mon := rfl
@[simp] theorem dictInsert_outbits (k : Str) (b : Byte) : (dictInsert k b s).outbits = s.outbits := rfl
@[simp] theorem dictInsert_inbits (k : Str) (b : Byte) : (dictInsert k b s).inbits = s.inbits := rfl
@[simp] theorem dictInsert_rp (k : Str) (b : Byte) : (dictInsert k b s).rp = s.rp := rfl
@[simp] theorem dictInsert_outb (k : Str) (b : Byte) : (dictInsert k b s).outb = s.outb := rfl
@[simp] theorem dictInsert_request (k : Str) (b : Byte) : (dictInsert k b s).request = s.request := rfl
@[simp] theorem dictInsert_result (k : Str) (b : Byte) : (dictInsert k b s).result = s.result := rfl
@[simp] theorem dictInsert_freeCount (k : Str) (b : Byte) : (dictInsert k b s).freeCount = s.freeCount := rfl

/-! tabInit -/

@[simp] theorem tabInit_dir : (tabInit s).dir = s.dir := rfl
@[simp] theorem tabInit_mode : (tabInit s).mode = s.mode := rfl
@[simp] theorem tabInit_st : (tabInit s).st = s.st := rfl
@[simp] theorem tabInit_err : (tabInit s).err = s.err := rfl
@[simp] theorem tabInit_errinfo : (tabInit s).errinfo = s.errinfo := rfl
@[simp] theorem tabInit_w : (tabInit s).w = s.w := rfl
@[simp] theorem tabInit_l : (tabInit s).l = s.l := rfl
@[simp] theorem tabInit_cc : (tabInit s).cc = s.cc := rfl
@[simp] theorem tabInit_input : (tabInit s).input = s.input := rfl
@[simp] theorem tabInit_cur : (tabInit s).cur = s.cur := rfl
@[simp] theorem tabInit_dict : (tabInit s).dict = s.dict := rfl
@[simp] theorem tabInit_prior : (tabInit s).prior = s.prior := rfl
@[simp] theorem tabInit_u : (tabInit s).u = s.u := rfl
@[simp] theorem tabInit_c : (tabInit s).c = s.c := rfl
@[simp] theorem tabInit_bu : (tabInit s).bu = s.bu := rfl
@[simp] theorem tabInit_bc : (tabInit s).bc = s.bc := rfl
@[simp] theorem tabInit_mon : (tabInit s).mon = s.mon := rfl
@[simp] theorem tabInit_outbits : (tabInit s).outbits = s.outbits := rfl
@[simp] theorem tabInit_inbits : (tabInit s).inbits = s.inbits := rfl
@[simp] theorem tabInit_rp : (tabInit s).rp = s.rp := rfl
@[simp] theorem tabInit_outb : (tabInit s).outb = s.outb := rfl
@[simp] theorem tabInit_request : (tabInit s).request = s.request := rfl
@[simp] theorem tabInit_result : (tabInit s).result = s.result := rfl
@[simp] theorem tabInit_freeCount : (tabInit s).freeCount = s.freeCount := rfl

/-! tabAppend -/

@[simp] theorem tabAppend_dir (v : Str) : (tabAppend v s).dir = s.dir := rfl
@[simp] theorem tabAppend_mode (v : Str) : (tabAppend v s).mode = s.mode := rfl
@[simp] theorem tabAppend_st (v : Str) : (tabAppend v s).st = s.st := rfl
@[simp] theorem tabAppend_err (v : Str) : (tabAppend v s).err = s.err := rfl
@[simp] theorem tabAppend_errinfo (v : Str) : (tabAppend v s).errinfo = s.errinfo := rfl
@[simp] theorem tabAppend_w (v : Str) : (tabAppend v s).w = s.w := rfl
@[simp] theorem tabAppend_l (v : Str) : (tabAppend v s).l = s.l := rfl
@[simp] theorem tabAppend_cc (v : Str) : (tabAppend v s).cc = s.cc + 1 := rfl
@[simp] theorem tabAppend_input (v : Str) : (tabAppend v s).input = s.input := rfl
@[simp] theorem tabAppend_cur (v : Str) : (tabAppend v s).cur = s.cur := rfl
@[simp] theorem tabAppend_dict (v : Str) : (tabAppend v s).dict = s.dict := rfl
@[simp] theorem tabAppend_tab (v : Str) : (tabAppend v s).tab = assocSet idxLt s.tab s.cc v := rfl
@[simp] theorem tabAppend_prior (v : Str) : (tabAppend v s).prior = s.prior := rfl
@[simp] theorem tabAppend_u (v : Str) : (tabAppend v s).u = s.u := rfl
@[simp] theorem tabAppend_c (v : Str) : (tabAppend v s).c = s.c := rfl
@[simp] theorem tabAppend_bu (v : Str) : (tabAppend v s).bu = s.bu := rfl
@[simp] theorem tabAppend_bc (v : Str) : (tabAppend v s).bc = s.bc := rfl
@[simp] theorem tabAppend_mon (v : Str) : (tabAppend v s).mon = s.mon := rfl
@[simp] theorem tabAppend_outbits (v : Str) : (tabAppend v s).outbits = s.outbits := rfl
@[simp] theorem tabAppend_inbits (v : Str) : (tabAppend v s).inbits = s.inbits := rfl
@[simp] theorem tabAppend_rp (v : Str) : (tabAppend v s).rp = s.rp := rfl
@[simp] theorem tabAppend_outb (v : Str) : (tabAppend v s).outb = s.outb := rfl
@[simp] theorem tabAppend_request (v : Str) : (tabAppend v s).request = s.request := rfl
@[simp] theorem tabAppend_result (v : Str) : (tabAppend v s).result = s.result := rfl
@[simp] theorem tabAppend_freeCount (v : Str) : (tabAppend v s).freeCount = s.freeCount := rfl

/-! wcInit -/

@[simp] theorem wcInit_dir : (wcInit s).dir = s.dir := rfl
@[simp] theorem wcInit_mode : (wcInit s).mode = s.mode := rfl
@[simp] theorem wcInit_st : (wcInit s).st = s.st := rfl
@[simp] theorem wcInit_err : (wcInit s).err = s.err := rfl
@[simp] theorem wcInit_errinfo : (wcInit s).errinfo = s.errinfo := rfl
@[simp] theorem wcInit_w : (wcInit s).w = 9 := rfl
@[simp] theorem wcInit_l : (wcInit s).l = 512 := rfl
@[simp] theorem wcInit_cc : (wcInit s).cc = s.cc := rfl
@[simp] theorem wcInit_input : (wcInit s).input = s.input := rfl
@[simp] theorem wcInit_cur : (wcInit s).cur = s.cur := rfl
@[simp] theorem wcInit_dict : (wcInit s).dict = s.dict := rfl
@[simp] theorem wcInit_tab : (wcInit s).tab = s.tab := rfl
@[simp] theorem wcInit_prior : (wcInit s).prior = s.prior := rfl
@[simp] theorem wcInit_u : (wcInit s).u = s.u := rfl
@[simp] theorem wcInit_c : (wcInit s).c = s.c := rfl
@[simp] theorem wcInit_bu : (wcInit s).bu = s.bu := rfl
@[simp] theorem wcInit_bc : (wcInit s).bc = s.bc := rfl
@[simp] theorem wcInit_mon : (wcInit s).mon = s.mon := rfl
@[simp] theorem wcInit_outbits : (wcInit s).outbits = s.outbits := rfl
@[simp] theorem wcInit_inbits : (wcInit s).inbits = s.inbits := rfl
@[simp] theorem wcInit_rp : (wcInit s).rp = s.rp := rfl
@[simp] theorem wcInit_outb : (wcInit s).outb = s.outb := rfl
@[simp] theorem wcInit_request : (wcInit s).request = s.request := rfl
@[simp] theorem wcInit_result : (wcInit s).result = s.result := rfl
@[simp] theorem wcInit_freeCount : (wcInit s).freeCount = s.freeCount := rfl

/-! wcGrow -/

@[simp] theorem wcGrow_dir : (wcGrow s).dir = s.dir := by unfold wcGrow; split <;> rfl
@[simp] theorem wcGrow_mode : (wcGrow s).mode = s.mode := by unfold wcGrow; split <;> rfl
@[simp] theorem wcGrow_st : (wcGrow s).st = s.st := by unfold wcGrow; split <;> rfl
@[simp] theorem wcGrow_err : (wcGrow s).err = s.err := by unfold wcGrow; split <;> rfl
@[simp] theorem wcGrow_errinfo : (wcGrow s).errinfo = s.errinfo := by unfold wcGrow; split <;> rfl
@[simp] theorem wcGrow_cc : (wcGrow s).cc = s.cc := by unfold wcGrow; split <;> rfl
@[simp] theorem wcGrow_input : (wcGrow s).input = s.input := by unfold wcGrow; split <;> rfl
@[simp] theorem wcGrow_cur : (wcGrow s).cur = s.cur := by unfold wcGrow; split <;> rfl
@[simp] theorem wcGrow_dict : (wcGrow s).dict = s.dict := by unfold wcGrow; split <;> rfl
@[simp] theorem wcGrow_tab : (wcGrow s).tab = s.tab := by unfold wcGrow; split <;> rfl
@[simp] theorem wcGrow_prior : (wcGrow s).prior = s.prior := by unfold wcGrow; split <;> rfl
@[simp] theorem wcGrow_u : (wcGrow s).u = s.u := by unfold wcGrow; split <;> rfl
@[simp] theorem wcGrow_c : (wcGrow s).c = s.c := by unfold wcGrow; split <;> rfl
@[simp] theorem wcGrow_bu : (wcGrow s).bu = s.bu := by unfold wcGrow; split <;> rfl
@[simp] theorem wcGrow_bc : (wcGrow s).bc = s.bc := by unfold wcGrow; split <;> rfl
@[simp] theorem wcGrow_mon : (wcGrow s).mon = s.mon := by unfold wcGrow; split <;> rfl
@[simp] theorem wcGrow_outbits : (wcGrow s).outbits = s.outbits := by unfold wcGrow; split <;> rfl
@[simp] theorem wcGrow_inbits : (wcGrow s).inbits = s.inbits := by unfold wcGrow; split <;> rfl
@[simp] theorem wcGrow_rp : (wcGrow s).rp = s.rp := by unfold wcGrow; split <;> rfl
@[simp] theorem wcGrow_outb : (wcGrow s).outb = s.outb := by unfold wcGrow; split <;> rfl
@[simp] theorem wcGrow_request : (wcGrow s).request = s.request := by unfold wcGrow; split <;> rfl
@[simp] theorem wcGrow_result : (wcGrow s).result = s.result := by unfold wcGrow; split <;> rfl
@[simp] theorem wcGrow_freeCount : (wcGrow s).freeCount = s.freeCount := by unfold wcGrow; split <;> rfl

/-! growthCheck -/

@[simp] theorem growthCheck_dir (d : Dir) : (growthCheck d s).dir = s.dir := by unfold growthCheck; split <;> simp
@[simp] theorem growthCheck_mode (d : Dir) : (growthCheck d s).mode = s.mode := by unfold growthCheck; split <;> simp
@[simp] theorem growthCheck_st (d : Dir) : (growthCheck d s).st = s.st := by unfold growthCheck; split <;> simp
@[simp] theorem growthCheck_err (d : Dir) : (growthCheck d s).err = s.err := by unfold growthCheck; split <;> simp
@[simp] theorem growthCheck_errinfo (d : Dir) : (growthCheck d s).errinfo = s.errinfo := by unfold growthCheck; split <;> simp
@[simp] theorem growthCheck_cc (d : Dir) : (growthCheck d s).cc = s.cc := by unfold growthCheck; split <;> simp
@[simp] theorem growthCheck_input (d : Dir) : (growthCheck d s).input = s.input := by unfold growthCheck; split <;> simp
@[simp] theorem growthCheck_cur (d : Dir) : (growthCheck d s).cur = s.cur := by unfold growthCheck; split <;> simp
@[simp] theorem growthCheck_dict (d : Dir) : (growthCheck d s).dict = s.dict := by unfold growthCheck; split <;> simp
@[simp] theorem growthCheck_tab (d : Dir) : (growthCheck d s).tab = s.tab := by unfold growthCheck; split <;> simp
@[simp] theorem growthCheck_prior (d : Dir) : (growthCheck d s).prior = s.prior := by unfold growthCheck; split <;> simp
@[simp] theorem growthCheck_u (d : Dir) : (growthCheck d s).u = s.u := by unfold growthCheck; split <;> simp
@[simp] theorem growthCheck_c (d : Dir) : (growthCheck d s).c = s.c := by unfold growthCheck; split <;> simp
@[simp] theorem growthCheck_bu (d : Dir) : (growthCheck d s).bu = s.bu := by unfold growthCheck; split <;> simp
@[simp] theorem growthCheck_bc (d : Dir) : (growthCheck d s).bc = s.bc := by unfold growthCheck; split <;> simp
@[simp] theorem growthCheck_mon (d : Dir) : (growthCheck d s).mon = s.mon := by unfold growthCheck; split <;> simp
@[simp] theorem growthCheck_outbits (d : Dir) : (growthCheck d s).outbits = s.outbits := by unfold growthCheck; split <;> simp
@[simp] theorem growthCheck_inbits (d : Dir) : (growthCheck d s).inbits = s.inbits := by unfold growthCheck; split <;> simp
@[simp] theorem growthCheck_rp (d : Dir) : (growthCheck d s).rp = s.rp := by unfold growthCheck; split <;> simp
@[simp] theorem growthCheck_outb (d : Dir) : (growthCheck d s).outb = s.outb := by unfold growthCheck; split <;> simp
@[simp] theorem growthCheck_request (d : Dir) : (growthCheck d s).request = s.request := by unfold growthCheck; split <;> simp
@[simp] theorem growthCheck_result (d : Dir) : (growthCheck d s).result = s.result := by unfold growthCheck; split <;> simp
@[simp] theorem growthCheck_freeCount (d : Dir) : (growthCheck d s).freeCount = s.freeCount := by unfold growthCheck; split <;> simp

/-! clearTracker -/

@[simp] theorem clearTracker_dir : (clearTracker s).dir = s.dir := rfl
@[simp] theorem clearTracker_mode : (clearTracker s).mode = s.mode := rfl
@[simp] theorem clearTracker_st : (clearTracker s).st = s.st := rfl
@[simp] theorem clearTracker_err : (clearTracker s).err = s.err := rfl
@[simp] theorem clearTracker_errinfo : (clearTracker s).errinfo = s.errinfo := rfl
@[simp] theorem clearTracker_w : (clearTracker s).w = s.w := rfl
@[simp] theorem clearTracker_l : (clearTracker s).l = s.l := rfl
@[simp] theorem clearTracker_cc : (clearTracker s).cc = s.cc := rfl
@[simp] theorem clearTracker_input : (clearTracker s).input = s.input := rfl
@[simp] theorem clearTracker_cur : (clearTracker s).cur = s.cur := rfl
@[simp] theorem clearTracker_dict : (clearTracker s).dict = s.dict := rfl
@[simp] theorem clearTracker_tab : (clearTracker s).tab = s.tab := rfl
@[simp] theorem clearTracker_prior : (clearTracker s).prior = s.prior := rfl
@[simp] theorem clearTracker_u : (clearTracker s).u = 0 := rfl
@[simp] theorem clearTracker_c : (clearTracker s).c = 0 := rfl
@[simp] theorem clearTracker_bu : (clearTracker s).bu = 0 := rfl
@[simp] theorem clearTracker_bc : (clearTracker s).bc = 0 := rfl
@[simp] theorem clearTracker_mon : (clearTracker s).mon = false := rfl
@[simp] theorem clearTracker_outbits : (clearTracker s).outbits = s.outbits := rfl
@[simp] theorem clearTracker_inbits : (clearTracker s).inbits = s.inbits := rfl
@[simp] theorem clearTracker_rp : (clearTracker s).rp = s.rp := rfl
@[simp] theorem clearTracker_outb : (clearTracker s).outb = s.outb := rfl
@[simp] theorem clearTracker_request : (clearTracker s).request = s.request := rfl
@[simp] theorem clearTracker_result : (clearTracker s).result = s.result := rfl
@[simp] theorem clearTracker_freeCount : (clearTracker s).freeCount = s.freeCount := rfl

/-! rtUpdate -/

@[simp] theorem rtUpdate_dir (t : Nat) : (rtUpdate t s).dir = s.dir := by unfold rtUpdate; split <;> rfl
@[simp] theorem rtUpdate_mode (t : Nat) : (rtUpdate t s).mode = s.mode := by unfold rtUpdate; split <;> rfl
@[simp] theorem rtUpdate_st (t : Nat) : (rtUpdate t s).st = s.st := by unfold rtUpdate; split <;> rfl
@[simp] theorem rtUpdate_err (t : Nat) : (rtUpdate t s).err = s.err := by unfold rtUpdate; split <;> rfl
@[simp] theorem rtUpdate_errinfo (t : Nat) : (rtUpdate t s).errinfo = s.errinfo := by unfold rtUpdate; split <;> rfl
@[simp] theorem rtUpdate_w (t : Nat) : (rtUpdate t s).w = s.w := by unfold rtUpdate; split <;> rfl
@[simp] theorem rtUpdate_l (t : Nat) : (rtUpdate t s).l = s.l := by unfold rtUpdate; split <;> rfl
@[simp] theorem rtUpdate_cc (t : Nat) : (rtUpdate t s).cc = s.cc := by unfold rtUpdate; split <;> rfl
@[simp] theorem rtUpdate_input (t : Nat) : (rtUpdate t s).input = s.input := by unfold rtUpdate; split <;> rfl
@[simp] theorem rtUpdate_cur (t : Nat) : (rtUpdate t s).cur = s.cur := by unfold rtUpdate; split <;> rfl
@[simp] theorem rtUpdate_dict (t : Nat) : (rtUpdate t s).dict = s.dict := by unfold rtUpdate; split <;> rfl
@[simp] theorem rtUpdate_tab (t : Nat) : (rtUpdate t s).tab = s.tab := by unfold rtUpdate; split <;> rfl
@[simp] theorem rtUpdate_prior (t : Nat) : (rtUpdate t s).prior = s.prior := by unfold rtUpdate; split <;> rfl
@[simp] theorem rtUpdate_bu (t : Nat) : (rtUpdate t s).bu = s.bu := by unfold rtUpdate; split <;> rfl
@[simp] theorem rtUpdate_bc (t : Nat) : (rtUpdate t s).bc = s.bc := by unfold rtUpdate; split <;> rfl
@[simp] theorem rtUpdate_mon (t : Nat) : (rtUpdate t s).mon = s.mon := by unfold rtUpdate; split <;> rfl
@[simp] theorem rtUpdate_outbits (t : Nat) : (rtUpdate t s).outbits = s.outbits := by unfold rtUpdate; split <;> rfl
@[simp] theorem rtUpdate_inbits (t : Nat) : (rtUpdate t s).inbits = s.inbits := by unfold rtUpdate; split <;> rfl
@[simp] theorem rtUpdate_rp (t : Nat) : (rtUpdate t s).rp = s.rp := by unfold rtUpdate; split <;> rfl
@[simp] theorem rtUpdate_outb (t : Nat) : (rtUpdate t s).outb = s.outb := by unfold rtUpdate; split <;> rfl
@[simp] theorem rtUpdate_request (t : Nat) : (rtUpdate t s).request = s.request := by unfold rtUpdate; split <;> rfl
@[simp] theorem rtUpdate_result (t : Nat) : (rtUpdate t s).result = s.result := by unfold rtUpdate; split <;> rfl
@[simp] theorem rtUpdate_freeCount (t : Nat) : (rtUpdate t s).freeCount = s.freeCount := by unfold rtUpdate; split <;> rfl

/-! rtCapture -/

@[simp] theorem rtCapture_dir : (rtCapture s).dir = s.dir := rfl
@[simp] theorem rtCapture_mode : (rtCapture s).mode = s.mode := rfl
@[simp] theorem rtCapture_st : (rtCapture s).st = s.st := rfl
@[simp] theorem rtCapture_err : (rtCapture s).err = s.err := rfl
@[simp] theorem rtCapture_errinfo : (rtCapture s).errinfo = s.errinfo := rfl
@[simp] theorem rtCapture_w : (rtCapture s).w = s.w := rfl
@[simp] theorem rtCapture_l : (rtCapture s).l = s.l := rfl
@[simp] theorem rtCapture_cc : (rtCapture s).cc = s.cc := rfl
@[simp] theorem rtCapture_input : (rtCapture s).input = s.input := rfl
@[simp] theorem rtCapture_cur : (rtCapture s).cur = s.cur := rfl
@[simp] theorem rtCapture_dict : (rtCapture s).dict = s.dict := rfl
@[simp] theorem rtCapture_tab : (rtCapture s).tab = s.tab := rfl
@[simp] theorem rtCapture_prior : (rtCapture s).prior = s.prior := rfl
@[simp] theorem rtCapture_u : (rtCapture s).u = s.u := rfl
@[simp] theorem rtCapture_c : (rtCapture s).c = s.c := rfl
@[simp] theorem rtCapture_bu : (rtCapture s).bu = s.u := rfl
@[simp] theorem rtCapture_bc : (rtCapture s).bc = s.c := rfl
@[simp] theorem rtCapture_mon : (rtCapture s).mon = true := rfl
@[simp] theorem rtCapture_outbits : (rtCapture s).outbits = s.outbits := rfl
@[simp] theorem rtCapture_inbits : (rtCapture s).inbits = s.inbits := rfl
@[simp] theorem rtCapture_rp : (rtCapture s).rp = s.rp := rfl
@[simp] theorem rtCapture_outb : (rtCapture s).outb = s.outb := rfl
@[simp] theorem rtCapture_request : (rtCapture s).request = s.request := rfl
@[simp] theorem rtCapture_result : (rtCapture s).result = s.result := rfl
@[simp] theorem rtCapture_freeCount : (rtCapture s).freeCount = s.freeCount := rfl

/-! restartWidth -/

@[simp] theorem restartWidth_dir : (restartWidth s).dir = s.dir := rfl
@[simp] theorem restartWidth_mode : (restartWidth s).mode = s.mode := rfl
@[simp] theorem restartWidth_st : (restartWidth s).st = s.st := rfl
@[simp] theorem restartWidth_err : (restartWidth s).err = s.err := rfl
@[simp] theorem restartWidth_errinfo : (restartWidth s).errinfo = s.errinfo := rfl
@[simp] theorem restartWidth_w : (restartWidth s).w = 9 := rfl
@[simp] theorem restartWidth_l : (restartWidth s).l = 512 := rfl
@[simp] theorem restartWidth_cc : (restartWidth s).cc = 257 := rfl
@[simp] theorem restartWidth_input : (restartWidth s).input = s.input := rfl
@[simp] theorem restartWidth_cur : (restartWidth s).cur = s.cur := rfl
@[simp] theorem restartWidth_dict : (restartWidth s).dict = s.dict := rfl
@[simp] theorem restartWidth_tab : (restartWidth s).tab = s.tab := rfl
@[simp] theorem restartWidth_prior : (restartWidth s).prior = s.prior := rfl
@[simp] theorem restartWidth_u : (restartWidth s).u = 0 := rfl
@[simp] theorem restartWidth_c : (restartWidth s).c = 0 := rfl
@[simp] theorem restartWidth_bu : (restartWidth s).bu = 0 := rfl
@[simp] theorem restartWidth_bc : (restartWidth s).bc = 0 := rfl
@[simp] theorem restartWidth_mon : (restartWidth s).mon = false := rfl
@[simp] theorem restartWidth_outbits : (restartWidth s).outbits = s.outbits := rfl
@[simp] theorem restartWidth_inbits : (restartWidth s).inbits = s.inbits := rfl
@[simp] theorem restartWidth_rp : (restartWidth s).rp = s.rp := rfl
@[simp] theorem restartWidth_outb : (restartWidth s).outb = s.outb := rfl
@[simp] theorem restartWidth_request : (restartWidth s).request = s.request := rfl
@[simp] theorem restartWidth_result : (restartWidth s).result = s.result := rfl
@[simp] theorem restartWidth_freeCount : (restartWidth s).freeCount = s.freeCount := rfl

/-! rpReset -/

@[simp] theorem rpReset_dir (d : Dir) : (rpReset d s).dir = s.dir := by cases d <;> rfl
@[simp] theorem rpReset_mode (d : Dir) : (rpReset d s).mode = s.mode := by cases d <;> rfl
@[simp] theorem rpReset_err (d : Dir) : (rpReset d s).err = s.err := by cases d <;> rfl
@[simp] theorem rpReset_errinfo (d : Dir) : (rpReset d s).errinfo = s.errinfo := by cases d <;> rfl
@[simp] theorem rpReset_w (d : Dir) : (rpReset d s).w = 9 := by cases d <;> rfl
@[simp] theorem rpReset_l (d : Dir) : (rpReset d s).l = 512 := by cases d <;> rfl
@[simp] theorem rpReset_cc (d : Dir) : (rpReset d s).cc = 257 := by cases d <;> rfl
@[simp] theorem rpReset_input (d : Dir) : (rpReset d s).input = s.input := by cases d <;> rfl
@[simp] theorem rpReset_cur (d : Dir) : (rpReset d s).cur = s.cur := by cases d <;> rfl
@[simp] theorem rpReset_u (d : Dir) : (rpReset d s).u = 0 := by cases d <;> rfl
@[simp] theorem rpReset_c (d : Dir) : (rpReset d s).c = 0 := by cases d <;> rfl
@[simp] theorem rpReset_bu (d : Dir) : (rpReset d s).bu = 0 := by cases d <;> rfl
@[simp] theorem rpReset_bc (d : Dir) : (rpReset d s).bc = 0 := by cases d <;> rfl
@[simp] theorem rpReset_mon (d : Dir) : (rpReset d s).mon = false := by cases d <;> rfl
@[simp] theorem rpReset_outbits (d : Dir) : (rpReset d s).outbits = s.outbits := by cases d <;> rfl
@[simp] theorem rpReset_inbits (d : Dir) : (rpReset d s).inbits = s.inbits := by cases d <;> rfl
@[simp] theorem rpReset_rp (d : Dir) : (rpReset d s).rp = s.rp := by cases d <;> rfl
@[simp] theorem rpReset_outb (d : Dir) : (rpReset d s).outb = s.outb := by cases d <;> rfl
@[simp] theorem rpReset_request (d : Dir) : (rpReset d s).request = s.request := by cases d <;> rfl
@[simp] theorem rpReset_result (d : Dir) : (rpReset d s).result = s.result := by cases d <;> rfl
@[simp] theorem rpReset_freeCount (d : Dir) : (rpReset d s).freeCount = s.freeCount := by cases d <;> rfl

/-! rpCheck -/

@[simp] theorem rpCheck_dir (d : Dir) : (rpCheck d s).dir = s.dir := by unfold rpCheck rpCheckNone rpCheckPeriodic rpCheckMonitored; split <;> (try split) <;> (try split) <;> simp
@[simp] theorem rpCheck_mode (d : Dir) : (rpCheck d s).mode = s.mode := by unfold rpCheck rpCheckNone rpCheckPeriodic rpCheckMonitored; split <;> (try split) <;> (try split) <;> simp
@[simp] theorem rpCheck_err (d : Dir) : (rpCheck d s).err = s.err := by unfold rpCheck rpCheckNone rpCheckPeriodic rpCheckMonitored; split <;> (try split) <;> (try split) <;> simp
@[simp] theorem rpCheck_errinfo (d : Dir) : (rpCheck d s).errinfo = s.errinfo := by unfold rpCheck rpCheckNone rpCheckPeriodic rpCheckMonitored; split <;> (try split) <;> (try split) <;> simp
@[simp] theorem rpCheck_input (d : Dir) : (rpCheck d s).input = s.input := by unfold rpCheck rpCheckNone rpCheckPeriodic rpCheckMonitored; split <;> (try split) <;> (try split) <;> simp
@[simp] theorem rpCheck_cur (d : Dir) : (rpCheck d s).cur = s.cur := by unfold rpCheck rpCheckNone rpCheckPeriodic rpCheckMonitored; split <;> (try split) <;> (try split) <;> simp
@[simp] theorem rpCheck_outbits (d : Dir) : (rpCheck d s).outbits = s.outbits := by unfold rpCheck rpCheckNone rpCheckPeriodic rpCheckMonitored; split <;> (try split) <;> (try split) <;> simp
@[simp] theorem rpCheck_inbits (d : Dir) : (rpCheck d s).inbits = s.inbits := by unfold rpCheck rpCheckNone rpCheckPeriodic rpCheckMonitored; split <;> (try split) <;> (try split) <;> simp
@[simp] theorem rpCheck_rp (d : Dir) : (rpCheck d s).rp = s.rp := by unfold rpCheck rpCheckNone rpCheckPeriodic rpCheckMonitored; split <;> (try split) <;> (try split) <;> simp
@[simp] theorem rpCheck_outb (d : Dir) : (rpCheck d s).outb = s.outb := by unfold rpCheck rpCheckNone rpCheckPeriodic rpCheckMonitored; split <;> (try split) <;> (try split) <;> simp
@[simp] theorem rpCheck_request (d : Dir) : (rpCheck d s).request = s.request := by unfold rpCheck rpCheckNone rpCheckPeriodic rpCheckMonitored; split <;> (try split) <;> (try split) <;> simp
@[simp] theorem rpCheck_result (d : Dir) : (rpCheck d s).result = s.result := by unfold rpCheck rpCheckNone rpCheckPeriodic rpCheckMonitored; split <;> (try split) <;> (try split) <;> simp
@[simp] theorem rpCheck_freeCount (d : Dir) : (rpCheck d s).freeCount = s.freeCount := by unfold rpCheck rpCheckNone rpCheckPeriodic rpCheckMonitored; split <;> (try split) <;> (try split) <;> simp

/-! postStep -/

@[simp] theorem postStep_dir (d : Dir) : (postStep d s).dir = s.dir := by simp [postStep]
@[simp] theorem postStep_mode (d : Dir) : (postStep d s).mode = s.mode := by simp [postStep]
@[simp] theorem postStep_err (d : Dir) : (postStep d s).err = s.err := by simp [postStep]
@[simp] theorem postStep_errinfo (d : Dir) : (postStep d s).errinfo = s.errinfo := by simp [postStep]
@[simp] theorem postStep_input (d : Dir) : (postStep d s).input = s.input := by simp [postStep]
@[simp] theorem postStep_cur (d : Dir) : (postStep d s).cur = s.cur := by simp [postStep]
@[simp] theorem postStep_outbits (d : Dir) : (postStep d s).outbits = s.outbits := by simp [postStep]
@[simp] theorem postStep_inbits (d : Dir) : (postStep d s).inbits = s.inbits := by simp [postStep]
@[simp] theorem postStep_rp (d : Dir) : (postStep d s).rp = s.rp := by simp [postStep]
@[simp] theorem postStep_outb (d : Dir) : (postStep d s).outb = s.outb := by simp [postStep]
@[simp] theorem postStep_request (d : Dir) : (postStep d s).request = s.request := by simp [postStep]
@[simp] theorem postStep_result (d : Dir) : (postStep d s).result = s.result := by simp [postStep]
@[simp] theorem postStep_freeCount (d : Dir) : (postStep d s).freeCount = s.freeCount := by simp [postStep]

/-! tagWrite -/

@[simp] theorem tagWrite_dir (m : Mode) : (tagWrite m s).dir = s.dir := rfl
@[simp] theorem tagWrite_mode (m : Mode) : (tagWrite m s).mode = s.mode := rfl
@[simp] theorem tagWrite_st (m : Mode) : (tagWrite m s).st = s.st := rfl
@[simp] theorem tagWrite_err (m : Mode) : (tagWrite m s).err = s.err := rfl
@[simp] theorem tagWrite_errinfo (m : Mode) : (tagWrite m s).errinfo = s.errinfo := rfl
@[simp] theorem tagWrite_w (m : Mode) : (tagWrite m s).w = s.w := rfl
@[simp] theorem tagWrite_l (m : Mode) : (tagWrite m s).l = s.l := rfl
@[simp] theorem tagWrite_cc (m : Mode) : (tagWrite m s).cc = s.cc := rfl
@[simp] theorem tagWrite_input (m : Mode) : (tagWrite m s).input = s.input := rfl
@[simp] theorem tagWrite_cur (m : Mode) : (tagWrite m s).cur = s.cur := rfl
@[simp] theorem tagWrite_dict (m : Mode) : (tagWrite m s).dict = s.dict := rfl
@[simp] theorem tagWrite_tab (m : Mode) : (tagWrite m s).tab = s.tab := rfl
@[simp] theorem tagWrite_prior (m : Mode) : (tagWrite m s).prior = s.prior := rfl
@[simp] theorem tagWrite_u (m : Mode) : (tagWrite m s).u = s.u := rfl
@[simp] theorem tagWrite_c (m : Mode) : (tagWrite m s).c = s.c := rfl
@[simp] theorem tagWrite_bu (m : Mode) : (tagWrite m s).bu = s.bu := rfl
@[simp] theorem tagWrite_bc (m : Mode) : (tagWrite m s).bc = s.bc := rfl
@[simp] theorem tagWrite_mon (m : Mode) : (tagWrite m s).mon = s.mon := rfl
@[simp] theorem tagWrite_inbits (m : Mode) : (tagWrite m s).inbits = s.inbits := rfl
@[simp] theorem tagWrite_rp (m : Mode) : (tagWrite m s).rp = s.rp := rfl
@[simp] theorem tagWrite_outb (m : Mode) : (tagWrite m s).outb = s.outb := rfl
@[simp] theorem tagWrite_request (m : Mode) : (tagWrite m s).request = s.request := rfl
@[simp] theorem tagWrite_result (m : Mode) : (tagWrite m s).result = s.result := rfl
@[simp] theorem tagWrite_freeCount (m : Mode) : (tagWrite m s).freeCount = s.freeCount := rfl

/-! encInsert -/

@[simp] theorem encInsert_dir (f : Str) : (encInsert f s).dir = s.dir := by unfold encInsert; split <;> (try split) <;> rfl
@[simp] theorem encInsert_mode (f : Str) : (encInsert f s).mode = s.mode := by unfold encInsert; split <;> (try split) <;> rfl
@[simp] theorem encInsert_st (f : Str) : (encInsert f s).st = s.st := by unfold encInsert; split <;> (try split) <;> rfl
@[simp] theorem encInsert_err (f : Str) : (encInsert f s).err = s.err := by unfold encInsert; split <;> (try split) <;> rfl
@[simp] theorem encInsert_errinfo (f : Str) : (encInsert f s).errinfo = s.errinfo := by unfold encInsert; split <;> (try split) <;> rfl
@[simp] theorem encInsert_w (f : Str) : (encInsert f s).w = s.w := by unfold encInsert; split <;> (try split) <;> rfl
@[simp] theorem encInsert_l (f : Str) : (encInsert f s).l = s.l := by unfold encInsert; split <;> (try split) <;> rfl
@[simp] theorem encInsert_input (f : Str) : (encInsert f s).input = s.input := by unfold encInsert; split <;> (try split) <;> rfl
@[simp] theorem encInsert_cur (f : Str) : (encInsert f s).cur = s.cur := by unfold encInsert; split <;> (try split) <;> rfl
@[simp] theorem encInsert_tab (f : Str) : (encInsert f s).tab = s.tab := by unfold encInsert; split <;> (try split) <;> rfl
@[simp] theorem encInsert_prior (f : Str) : (encInsert f s).prior = s.prior := by unfold encInsert; split <;> (try split) <;> rfl
@[simp] theorem encInsert_u (f : Str) : (encInsert f s).u = s.u := by unfold encInsert; split <;> (try split) <;> rfl
@[simp] theorem encInsert_c (f : Str) : (encInsert f s).c = s.c := by unfold encInsert; split <;> (try split) <;> rfl
@[simp] theorem encInsert_bu (f : Str) : (encInsert f s).bu = s.bu := by unfold encInsert; split <;> (try split) <;> rfl
@[simp] theorem encInsert_bc (f : Str) : (encInsert f s).bc = s.bc := by unfold encInsert; split <;> (try split) <;> rfl
@[simp] theorem encInsert_mon (f : Str) : (encInsert f s).mon = s.mon := by unfold encInsert; split <;> (try split) <;> rfl
@[simp] theorem encInsert_outbits (f : Str) : (encInsert f s).outbits = s.outbits := by unfold encInsert; split <;> (try split) <;> rfl
@[simp] theorem encInsert_inbits (f : Str) : (encInsert f s).inbits = s.inbits := by unfold encInsert; split <;> (try split) <;> rfl
@[simp] theorem encInsert_rp (f : Str) : (encInsert f s).rp = s.rp := by unfold encInsert; split <;> (try split) <;> rfl
@[simp] theorem encInsert_outb (f : Str) : (encInsert f s).outb = s.outb := by unfold encInsert; split <;> (try split) <;> rfl
@[simp] theorem encInsert_request (f : Str) : (encInsert f s).request = s.request := by unfold encInsert; split <;> (try split) <;> rfl
@[simp] theorem encInsert_result (f : Str) : (encInsert f s).result = s.result := by unfold encInsert; split <;> (try split) <;> rfl
@[simp] theorem encInsert_freeCount (f : Str) : (encInsert f s).freeCount = s.freeCount := by unfold encInsert; split <;> (try split) <;> rfl

/-! decAppend -/

@[simp] theorem decAppend_dir (p : Str) (b : Byte) : (decAppend p b s).dir = s.dir := by unfold decAppend; split <;> rfl
@[simp] theorem decAppend_mode (p : Str) (b : Byte) : (decAppend p b s).mode = s.mode := by unfold decAppend; split <;> rfl
@[simp] theorem decAppend_st (p : Str) (b : Byte) : (decAppend p b s).st = s.st := by unfold decAppend; split <;> rfl
@[simp] theorem decAppend_err (p : Str) (b : Byte) : (decAppend p b s).err = s.err := by unfold decAppend; split <;> rfl
@[simp] theorem decAppend_errinfo (p : Str) (b : Byte) : (decAppend p b s).errinfo = s.errinfo := by unfold decAppend; split <;> rfl
@[simp] theorem decAppend_w (p : Str) (b : Byte) : (decAppend p b s).w = s.w := by unfold decAppend; split <;> rfl
@[simp] theorem decAppend_l (p : Str) (b : Byte) : (decAppend p b s).l = s.l := by unfold decAppend; split <;> rfl
@[simp] theorem decAppend_input (p : Str) (b : Byte) : (decAppend p b s).input = s.input := by unfold decAppend; split <;> rfl
@[simp] theorem decAppend_cur (p : Str) (b : Byte) : (decAppend p b s).cur = s.cur := by unfold decAppend; split <;> rfl
@[simp] theorem decAppend_dict (p : Str) (b : Byte) : (decAppend p b s).dict = s.dict := by unfold decAppend; split <;> rfl
@[simp] theorem decAppend_prior (p : Str) (b : Byte) : (decAppend p b s).prior = s.prior := by unfold decAppend; split <;> rfl
@[simp] theorem decAppend_u (p : Str) (b : Byte) : (decAppend p b s).u = s.u := by unfold decAppend; split <;> rfl
@[simp] theorem decAppend_c (p : Str) (b : Byte) : (decAppend p b s).c = s.c := by unfold decAppend; split <;> rfl
@[simp] theorem decAppend_bu (p : Str) (b : Byte) : (decAppend p b s).bu = s.bu := by unfold decAppend; split <;> rfl
@[simp] theorem decAppend_bc (p : Str) (b : Byte) : (decAppend p b s).bc = s.bc := by unfold decAppend; split <;> rfl
@[simp] theorem decAppend_mon (p : Str) (b : Byte) : (decAppend p b s).mon = s.mon := by unfold decAppend; split <;> rfl
@[simp] theorem decAppend_outbits (p : Str) (b : Byte) : (decAppend p b s).outbits = s.outbits := by unfold decAppend; split <;> rfl
@[simp] theorem decAppend_inbits (p : Str) (b : Byte) : (decAppend p b s).inbits = s.inbits := by unfold decAppend; split <;> rfl
@[simp] theorem decAppend_rp (p : Str) (b : Byte) : (decAppend p b s).rp = s.rp := by unfold decAppend; split <;> rfl
@[simp] theorem decAppend_outb (p : Str) (b : Byte) : (decAppend p b s).outb = s.outb := by unfold decAppend; split <;> rfl
@[simp] theorem decAppend_request (p : Str) (b : Byte) : (decAppend p b s).request = s.request := by unfold decAppend; split <;> rfl
@[simp] theorem decAppend_result (p : Str) (b : Byte) : (decAppend p b s).result = s.result := by unfold decAppend; split <;> rfl
@[simp] theorem decAppend_freeCount (p : Str) (b : Byte) : (decAppend p b s).freeCount = s.freeCount := by unfold decAppend; split <;> rfl

end Sys2Proof.Machine
end

