-- ==== Sys2Proof/Laws/Assoc.lean ====
section
/-! SUPPORT. Key and value lists: a read after a write, the canonical form kept by every operation on a store, and what
the two stores hold after each of their operations. -/

namespace Sys2Proof.Machine

section generic
variable {κ α : Type} [DecidableEq κ]

/-- A read after a write: the written key has the written value, every other key what it had. -/
theorem assocGet_assocSet (lt : κ → κ → Bool) (m : List (κ × α)) (k k' : κ) (v : α) :
    assocGet (assocSet lt m k v) k' = if k' = k then some v else assocGet m k' := by
  induction m with
  | nil => simp [assocSet, assocGet]
  | cons e m ih =>
    obtain ⟨k₀, v₀⟩ := e
    by_cases h0 : k = k₀
    · subst h0; by_cases h : k' = k <;> simp [assocSet, assocGet, h]
    · by_cases hl : lt k k₀ = true
      · simp [assocSet, assocGet, h0, hl]
      · by_cases h1 : k' = k₀
        · subst h1
          have : ¬ k' = k := fun h => h0 h.symm
          simp [assocSet, assocGet, h0, hl, this]
        · simp [assocSet, assocGet, h0, hl, h1, ih]

/-- The keys after a write are the old ones and the written one. -/
theorem mem_assocSet {lt : κ → κ → Bool} {m : List (κ × α)} {k : κ} {v : α} {e : κ × α}
    (h : e ∈ assocSet lt m k v) : e = (k, v) ∨ e ∈ m := by
  induction m with
  | nil => exact .inl (by simpa [assocSet] using h)
  | cons e₀ m ih =>
    obtain ⟨k₀, v₀⟩ := e₀
    unfold assocSet at h
    split at h
    · rcases List.mem_cons.mp h with h | h
      · exact .inl h
      · exact .inr (List.mem_cons_of_mem _ h)
    · split at h
      · rcases List.mem_cons.mp h with h | h
        · exact .inl h
        · exact .inr h
      · rcases List.mem_cons.mp h with h | h
        · exact .inr (by simp [h])
        · exact (ih h).imp_right (List.mem_cons_of_mem _)

/-- A write keeps the canonical form. -/
theorem assocSet_wf {lt : κ → κ → Bool} (htrans : ∀ a b c, lt a b = true → lt b c = true → lt a c = true)
    (htotal : ∀ a b, a ≠ b → lt a b = false → lt b a = true) {m : List (κ × α)} (hm : assocWf lt m) (k : κ) (v : α) :
    assocWf lt (assocSet lt m k v) := by
  induction m with
  | nil => simp [assocSet, assocWf]
  | cons e m ih =>
    obtain ⟨k₀, v₀⟩ := e
    obtain ⟨hlt, hm'⟩ := List.pairwise_cons.mp hm
    unfold assocSet
    split
    · rename_i h; subst h
      exact List.pairwise_cons.mpr ⟨hlt, hm'⟩
    · split
      · rename_i hl
        refine List.pairwise_cons.mpr ⟨fun e he => ?_, hm⟩
        rcases List.mem_cons.mp he with h | h
        · subst h; exact hl
        · exact htrans _ _ _ hl (hlt e h)
      · rename_i hne hl
        refine List.pairwise_cons.mpr ⟨fun e he => ?_, ih hm'⟩
        rcases mem_assocSet he with h | h
        · subst h; exact htotal _ _ hne (by simpa using hl)
        · exact hlt e h

/-- A key that is read is listed with its value. -/
theorem mem_of_assocGet {m : List (κ × α)} {k : κ} {v : α} (h : assocGet m k = some v) : (k, v) ∈ m := by
  induction m with
  | nil => simp [assocGet] at h
  | cons e m ih =>
    obtain ⟨k₀, v₀⟩ := e
    unfold assocGet at h
    split at h
    · rename_i hk; subst hk; simp_all
    · exact List.mem_cons_of_mem _ (ih h)

/-- Reading a list that maps distinct keys `f x` to `g x`. -/
theorem assocGet_map {β : Type} (f : β → κ) (g : β → α) (hf : Function.Injective f) (xs : List β) (x : β) (hx : x ∈ xs) :
    assocGet (xs.map fun y => (f y, g y)) (f x) = some (g x) := by
  induction xs with
  | nil => simp at hx
  | cons y ys ih =>
    by_cases h : x = y
    · subst h; simp [assocGet]
    · have hm : x ∈ ys := by simpa [h] using hx
      simp [assocGet, hf.ne h, ih hm]

/-- A key that no `f x` equals is not listed. -/
theorem assocGet_map_none {β : Type} (f : β → κ) (g : β → α) (xs : List β) (k : κ) (hk : ∀ x, f x ≠ k) :
    assocGet (xs.map fun y => (f y, g y)) k = none := by
  induction xs with
  | nil => rfl
  | cons y ys ih => simp [assocGet, (hk y).symm, ih]

end generic

/-! The two key orders. -/

theorem idxLt_trans (a b c : Nat) (h : idxLt a b = true) (h' : idxLt b c = true) : idxLt a c = true := by
  simp [idxLt] at *; omega

theorem idxLt_total (a b : Nat) (h : a ≠ b) (h' : idxLt a b = false) : idxLt b a = true := by
  simp [idxLt] at *; omega

theorem strLt_trans (a b c : Str) (h : strLt a b = true) (h' : strLt b c = true) : strLt a c = true := by
  induction a generalizing b c with
  | nil => cases b <;> cases c <;> simp_all [strLt]
  | cons x xs ih =>
    cases b with
    | nil => simp [strLt] at h
    | cons y ys =>
      cases c with
      | nil => simp [strLt] at h'
      | cons z zs =>
        by_cases hxy : x = y
        · subst hxy
          by_cases hxz : x = z
          · subst hxz; simp [strLt] at *; exact ih _ _ h h'
          · simpa [strLt, hxz] using h'
        · by_cases hyz : y = z
          · subst hyz; simpa [strLt, hxy] using h
          · have h1 : x.toNat < y.toNat := by simpa [strLt, hxy] using h
            have h2 : y.toNat < z.toNat := by simpa [strLt, hyz] using h'
            have hxz : ¬ x = z := fun e => by subst e; omega
            simp [strLt, hxz]; omega

theorem strLt_total (a b : Str) (h : a ≠ b) (h' : strLt a b = false) : strLt b a = true := by
  induction a generalizing b with
  | nil => cases b <;> simp_all [strLt]
  | cons x xs ih =>
    cases b with
    | nil => simp [strLt]
    | cons y ys =>
      by_cases hxy : x = y
      · subst hxy
        have hne : xs ≠ ys := fun e => h (by rw [e])
        simp [strLt] at *; exact ih ys hne h'
      · have hyx : ¬ y = x := fun e => hxy e.symm
        have hn : x.toNat ≠ y.toNat := fun e => hxy (BitVec.eq_of_toNat_eq e)
        simp [strLt, hxy, hyx] at *; omega

/-! The 256 byte values. -/

theorem mem_allBytes (b : Byte) : b ∈ allBytes :=
  List.mem_map.mpr ⟨b.toNat, by simpa using b.isLt, by simp⟩

theorem allBytes_sorted : allBytes.Pairwise fun a b => a.toNat < b.toNat := by
  unfold allBytes
  rw [List.pairwise_map]
  refine List.Pairwise.imp_of_mem ?_ (List.pairwise_lt_range (n := 256))
  intro a b ha hb hab
  have := List.mem_range.mp ha
  have := List.mem_range.mp hb
  simp; omega

/-! DICT. -/

/-- A key read after DICT.insert (R84). -/
theorem dictGet_dictInsert (k : Str) (b : Byte) (s : State) (k' : Str) :
    dictGet (dictInsert k b s) k' = if k' = k ++ [b] then some (BitVec.ofNat 16 s.cc) else dictGet s k' :=
  assocGet_assocSet strLt s.dict (k ++ [b]) k' _

/-- After DICT.init every single byte is a key with its own value (R81). -/
theorem dictGet_dictInit_single (s : State) (b : Byte) : dictGet (dictInit s) [b] = some (b.setWidth 16) :=
  assocGet_map (fun b : Byte => [b]) (fun b => b.setWidth 16) (fun _ _ h => by simpa using h) _ _ (mem_allBytes b)

/-- After DICT.init there is no other key (R81). -/
theorem dictGet_dictInit_other (s : State) (k : Str) (h : k.length ≠ 1) : dictGet (dictInit s) k = none :=
  assocGet_map_none (fun b : Byte => [b]) _ _ k fun b hb => h (by simp [← hb])

theorem dictInit_wf (s : State) : assocWf strLt (dictInit s).dict := by
  unfold assocWf dictInit
  rw [List.pairwise_map]
  refine allBytes_sorted.imp fun {a b} h => ?_
  have : ¬ a = b := fun e => by subst e; omega
  simpa [strLt, this] using h

theorem dictInsert_wf (k : Str) (b : Byte) {s : State} (h : assocWf strLt s.dict) :
    assocWf strLt (dictInsert k b s).dict :=
  assocSet_wf strLt_trans strLt_total h _ _

/-! TAB. -/

/-- An entry read after TAB.append (R90). -/
theorem tabGet_tabAppend (v : Str) (s : State) (i : Nat) :
    tabGet (tabAppend v s) i = if i = s.cc then some v else tabGet s i :=
  assocGet_assocSet idxLt s.tab s.cc i v

/-- After TAB.init the entry of a byte is that byte (R87). -/
theorem tabGet_tabInit_byte (s : State) (b : Byte) : tabGet (tabInit s) b.toNat = some [b] :=
  assocGet_map (fun b : Byte => b.toNat) (fun b => [b]) (fun _ _ h => BitVec.eq_of_toNat_eq h) _ _ (mem_allBytes b)

/-- After TAB.init an index of 256 or more has no value (R87). -/
theorem tabGet_tabInit_other (s : State) (i : Nat) (h : 256 ≤ i) : tabGet (tabInit s) i = none :=
  assocGet_map_none (fun b : Byte => b.toNat) _ _ i fun b hb => by have := b.isLt; omega

theorem tabInit_wf (s : State) : assocWf idxLt (tabInit s).tab := by
  unfold assocWf tabInit
  rw [List.pairwise_map]
  exact allBytes_sorted.imp fun h => by simpa [idxLt] using h

theorem tabAppend_wf (v : Str) {s : State} (h : assocWf idxLt s.tab) : assocWf idxLt (tabAppend v s).tab :=
  assocSet_wf idxLt_trans idxLt_total h _ _

/-- Writing any list of entries, one after another, leaves a canonical table. -/
theorem foldl_assocSet_wf (es m : List (Nat × Str)) (h : assocWf idxLt m) :
    assocWf idxLt (es.foldl (fun m e => assocSet idxLt m e.1 e.2) m) := by
  induction es generalizing m with
  | nil => exact h
  | cons e es ih => exact ih _ (assocSet_wf idxLt_trans idxLt_total h _ _)

/-- The unspecified table of a failed DEC.start is in canonical form, whatever it holds. -/
theorem unspecifyStart_wf (s : State) : assocWf idxLt (unspecifyStart s).tab :=
  foldl_assocSet_wf _ [] List.Pairwise.nil

end Sys2Proof.Machine
end

