-- ==== Sys2Proof/Laws/Bits.lean ====
section
/-! SUPPORT. Bits and numbers: lengths, the order of the bits, and that reading gives back what was written. -/

namespace Sys2Proof

@[simp] theorem length_bitsOfNat (n v : Nat) : (bitsOfNat n v).length = n := by
  induction n with
  | zero => rfl
  | succ n ih => simp [bitsOfNat, ih]

/-- Bit `j` of the sequence is bit `n - 1 - j` of the value: the most significant first. -/
theorem getElem?_bitsOfNat (n v j : Nat) (h : j < n) : (bitsOfNat n v)[j]? = some (v.testBit (n - 1 - j)) := by
  induction n generalizing j with
  | zero => omega
  | succ n ih =>
    cases j with
    | zero => simp [bitsOfNat]
    | succ j =>
      have : n + 1 - 1 - (j + 1) = n - 1 - j := by omega
      rw [this]
      simpa [bitsOfNat] using ih j (by omega)

theorem natOfBits_lt (bs : Bits) : natOfBits bs < 2 ^ bs.length := by
  induction bs with
  | nil => simp [natOfBits]
  | cons b bs ih => cases b <;> simp [natOfBits, Nat.pow_succ] <;> omega

theorem mod_two_pow_succ' (v n : Nat) : v % 2 ^ (n + 1) = (v.testBit n).toNat * 2 ^ n + v % 2 ^ n := by
  rw [Nat.mod_pow_succ, Nat.toNat_testBit]
  ring

/-- Writing a value in `n` bits and reading them gives its low `n` bits. -/
theorem natOfBits_bitsOfNat (n v : Nat) : natOfBits (bitsOfNat n v) = v % 2 ^ n := by
  induction n with
  | zero => simp [bitsOfNat, natOfBits, Nat.mod_one]
  | succ n ih => rw [bitsOfNat, natOfBits, length_bitsOfNat, ih, mod_two_pow_succ']

/-- Reading bits and writing the value in as many bits gives them back. -/
theorem bitsOfNat_natOfBits (bs : Bits) : bitsOfNat bs.length (natOfBits bs) = bs := by
  refine List.ext_getElem? fun j => ?_
  by_cases h : j < bs.length
  · rw [getElem?_bitsOfNat _ _ _ h]
    induction bs generalizing j with
    | nil => simp at h
    | cons b bs ih =>
      have hlt := natOfBits_lt bs
      cases j with
      | zero =>
        simp only [List.length_cons, natOfBits, List.getElem?_cons_zero, Nat.add_sub_cancel, Nat.sub_zero]
        congr 1
        rw [mul_comm, Nat.testBit_two_pow_mul_add _ hlt]
        cases b <;> simp
      | succ j =>
        have hj : j < bs.length := by simpa using h
        have e : (b :: bs).length - 1 - (j + 1) = bs.length - 1 - j := by simp; omega
        rw [e, List.getElem?_cons_succ, ← ih j hj, natOfBits, mul_comm, Nat.testBit_two_pow_mul_add _ hlt]
        simp [show bs.length - 1 - j < bs.length by omega]
  · rw [List.getElem?_eq_none (by simpa using h), List.getElem?_eq_none (by omega)]

/-- The bits of a value determine its low bits. -/
theorem bitsOfNat_mod (n v : Nat) : bitsOfNat n (v % 2 ^ n) = bitsOfNat n v := by
  have := bitsOfNat_natOfBits (bitsOfNat n v)
  rwa [length_bitsOfNat, natOfBits_bitsOfNat] at this

/-- Reading what was written, whatever follows. -/
theorem readBits_append (n v : Nat) (rest : Bits) : readBits n (bitsOfNat n v ++ rest) = some (v % 2 ^ n, rest) := by
  have hl : (bitsOfNat n v).length = n := length_bitsOfNat n v
  unfold readBits
  rw [if_pos (by simp), List.take_left' hl, List.drop_left' hl, natOfBits_bitsOfNat]

/-- A read that succeeds splits the bits. -/
theorem readBits_some {n v : Nat} {bits rest : Bits} (h : readBits n bits = some (v, rest)) :
    bits = bitsOfNat n v ++ rest ∧ v < 2 ^ n := by
  unfold readBits at h
  split at h
  · rename_i hn
    obtain ⟨rfl, rfl⟩ : natOfBits (bits.take n) = v ∧ bits.drop n = rest := by simpa using h
    have hl : (bits.take n).length = n := by simpa using hn
    have := bitsOfNat_natOfBits (bits.take n)
    rw [hl] at this
    refine ⟨by rw [this, List.take_append_drop], ?_⟩
    have := natOfBits_lt (bits.take n)
    rwa [hl] at this
  · cases h

/-- A read fails exactly when fewer bits are left. -/
theorem readBits_eq_none (n : Nat) (bits : Bits) : readBits n bits = none ↔ bits.length < n := by
  unfold readBits
  split <;> simp <;> omega

end Sys2Proof
end

