-- ==== Sys2Proof/Laws/Ops.lean ====
section
/-! SUPPORT. Once for each shared operation, everything it can do; and once for the step: which instruction it runs in
which state. Proofs cite these and do not unfold the operations. -/

namespace Sys2Proof.Machine

/-! Tests. -/

theorem isFull_iff (d : Dir) (s : State) :
    isFull d s = true ↔ (d = .enc ∧ s.cc = s.l) ∨ (d = .dec ∧ s.cc + 1 = s.l) := by
  cases d <;> simp [isFull]

theorem notFullForInsert_iff (s : State) : notFullForInsert s = true ↔ s.cc < s.l := by
  simp [notFullForInsert]

theorem shouldGrow_iff (d : Dir) (s : State) : shouldGrow d s = true ↔ isFull d s = true ∧ s.w < 16 := by
  simp [shouldGrow]

theorem fullAtMaxWidth_iff (d : Dir) (s : State) :
    fullAtMaxWidth d s = true ↔ isFull d s = true ∧ s.w = 16 := by
  simp [fullAtMaxWidth]

theorem degraded_iff (s : State) : degraded s = true ↔ 11 * s.bc * s.u ≤ 10 * s.bu * s.c := by
  simp [degraded]

/-! Growth and policy. -/

/-- The growth check does nothing, or doubles L and adds one to W (R98, R100, R101). -/
theorem growthCheck_cases (d : Dir) (s : State) :
    (isFull d s = true ∧ s.w < 16 ∧ growthCheck d s = { s with w := s.w + 1, l := s.l * 2 }) ∨
    (¬ (isFull d s = true ∧ s.w < 16) ∧ growthCheck d s = s) := by
  by_cases h : isFull d s = true ∧ s.w < 16
  · exact .inl ⟨h.1, h.2, by simp [growthCheck, shouldGrow, wcGrow, h]⟩
  · refine .inr ⟨h, ?_⟩
    have : shouldGrow d s = false := by simpa [shouldGrow] using h
    simp [growthCheck, this]

/-- When a policy check resets (R110, R111). -/
def ResetsOn (d : Dir) (s : State) : Prop :=
  (s.mode = .periodic ∧ fullAtMaxWidth d s = true) ∨ (s.mode = .monitored ∧ s.mon = true ∧ degraded s = true)

/-- When a policy check captures the baseline (R111). -/
def CapturesOn (d : Dir) (s : State) : Prop :=
  s.mode = .monitored ∧ s.mon = false ∧ fullAtMaxWidth d s = true

/-- The policy check resets, captures or does nothing (R106 to R111). -/
theorem rpCheck_cases (d : Dir) (s : State) :
    (ResetsOn d s ∧ rpCheck d s = rpReset d s) ∨
    (¬ ResetsOn d s ∧ CapturesOn d s ∧ rpCheck d s = rtCapture s) ∨
    (¬ ResetsOn d s ∧ ¬ CapturesOn d s ∧ rpCheck d s = s) := by
  unfold ResetsOn CapturesOn
  cases hm : s.mode with
  | none => simp [rpCheck, hm, rpCheckNone]
  | periodic => cases hf : fullAtMaxWidth d s <;> simp [rpCheck, hm, rpCheckPeriodic, hf]
  | monitored =>
    cases hn : s.mon with
    | false => cases hf : fullAtMaxWidth d s <;> simp [rpCheck, hm, rpCheckMonitored, hn, hf]
    | true => cases hg : degraded s <;> simp [rpCheck, hm, rpCheckMonitored, hn, hg]

/-- The tracker's update counts in mode MONITORED only (R114). -/
theorem rtUpdate_cases (t : Nat) (s : State) :
    (s.mode = .monitored ∧ rtUpdate t s = { s with u := s.u + 8 * t, c := s.c + s.w }) ∨
    (s.mode ≠ .monitored ∧ rtUpdate t s = s) := by
  cases h : s.mode <;> simp [rtUpdate, h]

theorem rpReset_enc (s : State) : rpReset .enc s = restartWidth (dictInit s) := rfl

theorem rpReset_dec (s : State) :
    rpReset .dec s = { restartWidth (tabInit s) with prior := none, st := .awaitFirst } := rfl

/-! The channels. -/

/-- A read that finds its bits: their value, and RP past them (R43). -/
theorem bitRead_some {n : Nat} {s s' : State} {v : Codeword} (h : bitRead n s = some (v, s')) :
    ∃ k rest, s.inbits.drop s.rp = bitsOfNat n k ++ rest ∧ k < 2 ^ n ∧ v = BitVec.ofNat 16 k ∧
      s' = advance n s := by
  unfold bitRead at h
  cases hr : readBits n (s.inbits.drop s.rp) with
  | none => rw [hr] at h; cases h
  | some p =>
    obtain ⟨k, rest⟩ := p
    rw [hr] at h
    obtain ⟨rfl, rfl⟩ : BitVec.ofNat 16 k = v ∧ advance n s = s' := by simpa using h
    obtain ⟨hb, hk⟩ := readBits_some hr
    exact ⟨k, rest, hb, hk, rfl, rfl⟩

/-- A read answers Exhausted exactly when fewer bits are left (R43). -/
theorem bitRead_eq_none (n : Nat) (s : State) : bitRead n s = none ↔ (s.inbits.drop s.rp).length < n := by
  unfold bitRead
  rw [← readBits_eq_none]
  cases readBits n (s.inbits.drop s.rp) <;> simp

/-- Reading `n` bits that hold `k` (R43). -/
theorem bitRead_of_bits {n k : Nat} {rest : Bits} {s : State} (h : s.inbits.drop s.rp = bitsOfNat n k ++ rest)
    (hk : k < 2 ^ n) : bitRead n s = some (BitVec.ofNat 16 k, advance n s) := by
  simp [bitRead, h, readBits_append, Nat.mod_eq_of_lt hk]

theorem modeOfTag_tagOf (m : Mode) : modeOfTag (tagOf m) = some m := by
  cases m <;> decide

theorem modeOfTag_eq_some {tag : Byte} {m : Mode} (h : modeOfTag tag = some m) : tag = tagOf m := by
  unfold modeOfTag at h
  split at h
  · cases h; assumption
  · split at h
    · cases h; assumption
    · split at h
      · cases h; assumption
      · cases h

/-- TAG.read selects MODE, or fails on a bad tag or for want of bits (R163, R174, R175). -/
theorem readTag_cases (s : State) :
    (∃ m, bitRead 8 s = some ((tagOf m).setWidth 16, advance 8 s) ∧
      readTag s = (true, { advance 8 s with mode := m })) ∨
    (∃ tag : Byte, modeOfTag tag = none ∧ bitRead 8 s = some (tag.setWidth 16, advance 8 s) ∧
      readTag s = (false, raiseAtStart .malformedModeTag (tag.setWidth 16) (advance 8 s))) ∨
    (bitRead 8 s = none ∧ readTag s = (false, raiseAtStart .truncatedStream 8 s)) := by
  cases h : bitRead 8 s with
  | none => exact .inr (.inr ⟨rfl, by simp [readTag, h]⟩)
  | some p =>
    obtain ⟨v, s'⟩ := p
    obtain ⟨k, rest, -, hk, rfl, rfl⟩ := bitRead_some h
    have hv : BitVec.ofNat 16 k = (BitVec.ofNat 8 k).setWidth 16 := by
      apply BitVec.eq_of_toNat_eq; simp; omega
    have hb : (BitVec.ofNat 16 k).setWidth 8 = BitVec.ofNat 8 k := by
      apply BitVec.eq_of_toNat_eq; simp
    cases ht : modeOfTag (BitVec.ofNat 8 k) with
    | none => exact .inr (.inl ⟨_, ht, by rw [hv], by simp [readTag, h, takeTag, hb, ht]⟩)
    | some m =>
      refine .inl ⟨m, ?_, by simp [readTag, h, takeTag, hb, ht]⟩
      rw [hv, modeOfTag_eq_some ht]

/-! Codewords. -/

/-- R65, AwaitFirst. -/
theorem classify_awaitFirst (cc : Nat) (c : Codeword) :
    (c.toNat = 256 ∧ classify .awaitFirst cc c = some .cwEof) ∨
    (c.toNat < 256 ∧ classify .awaitFirst cc c = some (.cwLit (c.setWidth 8))) ∨
    (257 ≤ c.toNat ∧ classify .awaitFirst cc c = some (.cwOor c)) := by
  unfold classify
  rcases Nat.lt_trichotomy c.toNat 256 with h | h | h
  · exact .inr (.inl ⟨h, by simp [h, Nat.ne_of_lt h]⟩)
  · exact .inl ⟨h, by simp [h]⟩
  · exact .inr (.inr ⟨h, by simp [show ¬ c.toNat = 256 by omega, show ¬ c.toNat < 256 by omega]⟩)

/-- R65, Running. -/
theorem classify_running (cc : Nat) (c : Codeword) :
    (c.toNat = 256 ∧ classify .running cc c = some .cwEof) ∨
    (c.toNat < 256 ∧ classify .running cc c = some (.cwLit (c.setWidth 8))) ∨
    (257 ≤ c.toNat ∧ c.toNat < cc ∧ classify .running cc c = some (.cwRef c)) ∨
    (257 ≤ c.toNat ∧ c.toNat = cc ∧ classify .running cc c = some (.cwKwkwk c)) ∨
    (257 ≤ c.toNat ∧ cc < c.toNat ∧ classify .running cc c = some (.cwOor c)) := by
  unfold classify
  rcases Nat.lt_trichotomy c.toNat 256 with h | h | h
  · exact .inr (.inl ⟨h, by simp [h, Nat.ne_of_lt h]⟩)
  · exact .inl ⟨h, by simp [h]⟩
  · have h1 : ¬ c.toNat = 256 := by omega
    have h2 : ¬ c.toNat < 256 := by omega
    rcases Nat.lt_trichotomy c.toNat cc with h3 | h3 | h3
    · exact .inr (.inr (.inl ⟨h, h3, by simp [h1, h2, h3]⟩))
    · subst h3; exact .inr (.inr (.inr (.inl ⟨h, rfl, by simp [h1, h2]⟩)))
    · exact .inr (.inr (.inr (.inr ⟨h, h3, by simp [h1, h2, show ¬ c.toNat < cc by omega, show ¬ c.toNat = cc by omega]⟩)))

/-- A codeword's value with PRIOR (R147): it goes on exactly when both are there and the value is not empty. -/
theorem decContinue_some {p next : Str} {s : State} (hp : s.prior = some p) (hn : next ≠ []) :
    decContinue (some next) s = .next (decNextValue p (next.head hn) next.tail s) := by
  cases next with
  | nil => exact absurd rfl hn
  | cons b bs => simp [decContinue, hp]

theorem decContinue_next {next : Option Str} {s t : State} (h : decContinue next s = .next t) :
    ∃ p b bs, s.prior = some p ∧ next = some (b :: bs) ∧ t = decNextValue p b bs s := by
  cases hp : s.prior with
  | none => simp [decContinue, hp] at h
  | some p =>
    match next, h with
    | none, h => simp [decContinue, hp] at h
    | some [], h => simp [decContinue, hp] at h
    | some (b :: bs), h => exact ⟨p, b, bs, rfl, rfl, by simpa [decContinue, hp] using h.symm⟩

/-- The append of a Decoder step happens exactly when the table is not full (R147). -/
theorem decAppend_cases (p : Str) (b : Byte) (s : State) :
    (s.cc < s.l ∧ decAppend p b s = tabAppend (p ++ [b]) s) ∨ (s.l ≤ s.cc ∧ decAppend p b s = s) := by
  unfold decAppend notFullForInsert
  by_cases h : s.cc < s.l
  · exact .inl ⟨h, by simp [h]⟩
  · exact .inr ⟨by omega, by simp [h]⟩

/-- The insert of an Encoder step happens exactly when a byte follows the match and the table is not full (R128). -/
theorem encInsert_cases (found : Str) (s : State) :
    (∃ b, s.input[s.cur + found.length]? = some b ∧ s.cc < s.l ∧ encInsert found s = dictInsert found b s) ∨
    ((s.input.length ≤ s.cur + found.length ∨ s.l ≤ s.cc) ∧ encInsert found s = s) := by
  unfold encInsert inByte notFullForInsert
  cases h : s.input[s.cur + found.length]? with
  | none => exact .inr ⟨.inl (by simpa using h), rfl⟩
  | some b =>
    by_cases hc : s.cc < s.l
    · exact .inl ⟨b, rfl, hc, by simp [hc]⟩
    · exact .inr ⟨.inr (by omega), by simp [hc]⟩

/-! The longest match (R82). -/

/-- The loop extends the match along the input: what it finds is the match followed by input bytes. -/
theorem extendMatch_prefix (s : State) (found rest : Str) :
    ∃ n, n ≤ rest.length ∧ extendMatch s found rest = found ++ rest.take n := by
  induction rest generalizing found with
  | nil => exact ⟨0, by simp, by simp [extendMatch]⟩
  | cons b rest ih =>
    unfold extendMatch
    split
    · obtain ⟨n, hn, he⟩ := ih (found ++ [b])
      exact ⟨n + 1, by simpa using hn, by simp [he]⟩
    · exact ⟨0, by simp, by simp⟩

/-- What the loop finds is a key, if it starts from a key. -/
theorem extendMatch_isKey (s : State) (found rest : Str) (h : (dictGet s found).isSome) :
    (dictGet s (extendMatch s found rest)).isSome := by
  induction rest generalizing found with
  | nil => simpa [extendMatch] using h
  | cons b rest ih =>
    unfold extendMatch
    split
    · rename_i hk; exact ih _ hk
    · exact h

/-- The loop stops only where the next longer string is not a key, or the input ends. -/
theorem extendMatch_stops (s : State) (found rest : Str) (n : Nat) (he : extendMatch s found rest = found ++ rest.take n)
    (hn : n < rest.length) : dictGet s (found ++ rest.take (n + 1)) = none := by
  induction rest generalizing found n with
  | nil => simp at hn
  | cons b rest ih =>
    unfold extendMatch at he
    split at he
    · cases n with
      | zero =>
        obtain ⟨k, -, hk⟩ := extendMatch_prefix s (found ++ [b]) rest
        rw [he] at hk
        have := congrArg List.length hk
        simp at this
      | succ n =>
        have := ih (found ++ [b]) n (by simpa using he) (by simpa using hn)
        simpa using this
    · rename_i hk
      cases n with
      | zero => simpa using hk
      | succ n =>
        have := congrArg List.length he
        simp at this

/-- The longest match at `i`: it exists exactly for `i < N`, and is a prefix of the remaining input of at least one
byte. -/
theorem longestPrefix_cases (i : Nat) (s : State) :
    (s.input.length ≤ i ∧ longestPrefix i s = none) ∨
    (i < s.input.length ∧ ∃ t, 1 ≤ t ∧ i + t ≤ s.input.length ∧
      longestPrefix i s = some ((s.input.drop i).take t) ∧ ((s.input.drop i).take t).length = t) := by
  unfold longestPrefix
  cases h : s.input.drop i with
  | nil => exact .inl ⟨by simpa using h, rfl⟩
  | cons b rest =>
    have hl : (s.input.drop i).length = rest.length + 1 := by rw [h]; rfl
    rw [List.length_drop] at hl
    obtain ⟨n, hn, he⟩ := extendMatch_prefix s [b] rest
    refine .inr ⟨by omega, n + 1, by omega, by omega, by simp [he], ?_⟩
    simp; omega

/-! The step. -/

/-- The fetch of a Decoder in progress: the class of the next codeword, or TruncatedStream (R142, R143). -/
theorem fetchDecoder_cases (s : State) (h : s.st ≠ .halted) :
    (bitRead s.w s = none ∧ fetchDecoder s = .raised (raise .truncatedStream (BitVec.ofNat 16 s.w) s)) ∨
    (∃ c i, bitRead s.w s = some (c, advance s.w s) ∧ classify s.st s.cc c = some i ∧
      fetchDecoder s = .run i (advance s.w s)) := by
  unfold fetchDecoder decodeSymbol bitRead
  cases hr : readBits s.w (s.inbits.drop s.rp) with
  | none => exact .inl ⟨rfl, by simp [hr]⟩
  | some p =>
    obtain ⟨v, rest⟩ := p
    refine .inr ⟨BitVec.ofNat 16 v, ?_⟩
    cases hs : s.st with
    | halted => exact absurd hs h
    | awaitFirst =>
      rcases classify_awaitFirst s.cc (BitVec.ofNat 16 v) with ⟨-, hc⟩ | ⟨-, hc⟩ | ⟨-, hc⟩ <;>
        exact ⟨_, rfl, hc, by simp [hr, hc]⟩
    | running =>
      rcases classify_running s.cc (BitVec.ofNat 16 v) with ⟨-, hc⟩ | ⟨-, hc⟩ | ⟨-, -, hc⟩ | ⟨-, -, hc⟩ | ⟨-, -, hc⟩ <;>
        exact ⟨_, rfl, hc, by simp [hr, hc]⟩

/-- Every instruction that a fetch gives (R127, R142): a host transaction's, an Encoder operation, or the class of a
codeword that has been read. -/
theorem fetch_run {s s' : State} {i : Instr} (h : fetch s = .run i s') :
    (∃ r, s.request = some r ∧ i = decodeRequest r ∧ s' = { s with request := none }) ∨
    (s.request = none ∧ s.st = .running ∧ s.dir = .enc ∧ s' = s ∧
      (s.cur < s.input.length ∧ i = .encStep ∨ s.cur = s.input.length ∧ i = .encEof)) ∨
    (s.request = none ∧ s.st ≠ .halted ∧ s.dir = .dec ∧ s' = advance s.w s ∧
      ∃ c, bitRead s.w s = some (c, advance s.w s) ∧ classify s.st s.cc c = some i) := by
  unfold fetch at h
  split at h
  · rename_i r hr
    cases h
    exact .inl ⟨r, hr, rfl, rfl⟩
  · rename_i hr
    have dec (hh : s.st ≠ .halted) (hd : s.dir = .dec) (hf : fetchDecoder s = .run i s') :
        s.request = none ∧ s.st ≠ .halted ∧ s.dir = .dec ∧ s' = advance s.w s ∧
          ∃ c, bitRead s.w s = some (c, advance s.w s) ∧ classify s.st s.cc c = some i := by
      rcases fetchDecoder_cases s hh with ⟨-, he⟩ | ⟨c, j, hb, hc, he⟩
      · rw [he] at hf; cases hf
      · rw [he] at hf; cases hf; exact ⟨hr, hh, hd, rfl, c, hb, hc⟩
    split at h
    · cases h
    · rename_i hs hd
      refine .inr (.inl ⟨hr, hs, hd, ?_⟩)
      unfold fetchEncoder inputLength at h
      split at h
      · rename_i hc; cases h; exact ⟨rfl, .inl ⟨hc, rfl⟩⟩
      · split at h
        · rename_i hc; cases h; exact ⟨rfl, .inr ⟨hc, rfl⟩⟩
        · cases h
    · cases h
    · rename_i hs hd; exact .inr (.inr (dec (by simp [hs]) hd h))
    · rename_i hs hd; exact .inr (.inr (dec (by simp [hs]) hd h))

/-- The only error a fetch raises is the Decoder's TruncatedStream(W) (R143). -/
theorem fetch_raised {s s' : State} (h : fetch s = .raised s') :
    s.request = none ∧ s.st ≠ .halted ∧ s.dir = .dec ∧ bitRead s.w s = none ∧
      s' = raise .truncatedStream (BitVec.ofNat 16 s.w) s := by
  unfold fetch at h
  split at h
  · cases h
  · rename_i hr
    have dec (hh : s.st ≠ .halted) (hd : s.dir = .dec) (hf : fetchDecoder s = .raised s') :
        s.request = none ∧ s.st ≠ .halted ∧ s.dir = .dec ∧ bitRead s.w s = none ∧
          s' = raise .truncatedStream (BitVec.ofNat 16 s.w) s := by
      rcases fetchDecoder_cases s hh with ⟨hb, he⟩ | ⟨c, j, -, -, he⟩
      · rw [he] at hf; cases hf; exact ⟨hr, hh, hd, hb, rfl⟩
      · rw [he] at hf; cases hf
    split at h
    · cases h
    · unfold fetchEncoder at h
      split at h
      · cases h
      · split at h <;> cases h
    · cases h
    · rename_i hs hd; exact dec (by simp [hs]) hd h
    · rename_i hs hd; exact dec (by simp [hs]) hd h

/-- Every step that answers a next state is one of these: a host transaction, an Encoder operation, a Decoder's failed
read, or a codeword of the Decoder. -/
theorem step_cases {s t : State} (h : step s = .next t) :
    (∃ r, s.request = some r ∧ exec (decodeRequest r) { s with request := none } = .next t) ∨
    (s.request = none ∧ s.st = .running ∧ s.dir = .enc ∧ s.cur < s.input.length ∧ exec .encStep s = .next t) ∨
    (s.request = none ∧ s.st = .running ∧ s.dir = .enc ∧ s.cur = s.input.length ∧ exec .encEof s = .next t) ∨
    (s.request = none ∧ s.st ≠ .halted ∧ s.dir = .dec ∧ bitRead s.w s = none ∧
      t = raise .truncatedStream (BitVec.ofNat 16 s.w) s) ∨
    (s.request = none ∧ s.st ≠ .halted ∧ s.dir = .dec ∧
      ∃ c i, bitRead s.w s = some (c, advance s.w s) ∧ classify s.st s.cc c = some i ∧
        exec i (advance s.w s) = .next t) := by
  unfold step at h
  split at h
  · rename_i i s' hf
    rcases fetch_run hf with ⟨r, hr, rfl, rfl⟩ | ⟨hr, hs, hd, rfl, ⟨hc, rfl⟩ | ⟨hc, rfl⟩⟩ |
      ⟨hr, hs, hd, rfl, c, hb, hc⟩
    · exact .inl ⟨r, hr, h⟩
    · exact .inr (.inl ⟨hr, hs, hd, hc, h⟩)
    · exact .inr (.inr (.inl ⟨hr, hs, hd, hc, h⟩))
    · exact .inr (.inr (.inr (.inr ⟨hr, hs, hd, c, i, hb, hc, h⟩)))
  · rename_i s' hf
    obtain ⟨hr, hs, hd, hb, rfl⟩ := fetch_raised hf
    cases h
    exact .inr (.inr (.inr (.inl ⟨hr, hs, hd, hb, rfl⟩)))
  · cases h

/-- An Encoder step that answers a next state found a match and its codeword (R128). -/
theorem execEncStep_next {s t : State} (h : execEncStep s = .next t) :
    s.dir = .enc ∧ s.st = .running ∧ ∃ found code, longestPrefix s.cur s = some found ∧
      dictGet s found = some code ∧ t = encEmit found code s := by
  unfold execEncStep at h
  split at h
  · rename_i hd
    split at h
    · cases h
    · rename_i found hf
      split at h
      · cases h
      · rename_i code hc
        exact ⟨hd.1, hd.2, found, code, hf, hc, by simpa using h.symm⟩
  · cases h

end Sys2Proof.Machine
end

