-- ==== Sys2Proof/Laws/PerInstr.lean ====
section
/-! SUPPORT. The statements made per instruction. SymbolLength: how many bits each instruction's symbol has, by its
format (spec/30_encoding.md R61, R63, R70, R71). -/

namespace Sys2Proof.Laws.SymbolLength

/-- The bits of an instruction by its format: T has 8, C has the current width, CMD has 3, OP and STATUS have none. -/
def expected (w : Nat) : Instr → Option Nat
  | .tagNone => some 8
  | .tagPeriodic => some 8
  | .tagMonitored => some 8
  | .tagInvalid _ => some 8
  | .cwLit _ => some w
  | .cwEof => some w
  | .cwRef _ => some w
  | .cwKwkwk _ => some w
  | .cwOor _ => some w
  | .startCompressNone => some 3
  | .startCompressPeriodic => some 3
  | .startCompressMonitored => some 3
  | .startReserved => some 3
  | .startExpand _ => some 3
  | .status => none
  | .dictInit => none
  | .dictLongestPrefixOf _ => none
  | .dictGet _ => none
  | .dictInsert _ _ => none
  | .tabInit => none
  | .tabLookup _ => none
  | .tabAppend _ => none
  | .wcInit => none
  | .wcIsFull _ => none
  | .wcGrow => none
  | .wcShouldGrow _ => none
  | .wcGrowthCheck _ => none
  | .rpCheck _ => none
  | .rpReset _ => none
  | .rpCheckNone => none
  | .rpCheckPeriodic _ => none
  | .rpCheckMonitored _ => none
  | .rtUpdate _ => none
  | .rtCapture => none
  | .rtDegraded => none
  | .encStart _ => none
  | .encStep => none
  | .encEof => none
  | .decStart => none
  | .decFirst => none
  | .decNext => none
  | .tagWrite _ => none
  | .tagRead => none
  | .bitWrite _ _ => none
  | .bitRead _ => none
  | .bitClose => none
  | .inByte _ => none
  | .outBytes _ => none

/-- The encoding of `i` at every codeword width has the length of its format, and exactly the rows that have no bit
pattern have no encoding. -/
def Statement (i : Instr) : Prop := ∀ w, (encode w i).map List.length = expected w i

theorem tagNone : Statement .tagNone := fun _ => by simp [encode, Instr.symbol, expected]
theorem tagPeriodic : Statement .tagPeriodic := fun _ => by simp [encode, Instr.symbol, expected]
theorem tagMonitored : Statement .tagMonitored := fun _ => by simp [encode, Instr.symbol, expected]
theorem tagInvalid (tag : Byte) : Statement (.tagInvalid tag) := fun _ => by simp [encode, Instr.symbol, expected]
theorem cwLit (b : Byte) : Statement (.cwLit b) := fun _ => by simp [encode, Instr.symbol, expected]
theorem cwEof : Statement .cwEof := fun _ => by simp [encode, Instr.symbol, expected]
theorem cwRef (c : Codeword) : Statement (.cwRef c) := fun _ => by simp [encode, Instr.symbol, expected]
theorem cwKwkwk (c : Codeword) : Statement (.cwKwkwk c) := fun _ => by simp [encode, Instr.symbol, expected]
theorem cwOor (c : Codeword) : Statement (.cwOor c) := fun _ => by simp [encode, Instr.symbol, expected]
theorem startCompressNone : Statement .startCompressNone := fun _ => by simp [encode, Instr.symbol, expected]
theorem startCompressPeriodic : Statement .startCompressPeriodic := fun _ => by simp [encode, Instr.symbol, expected]
theorem startCompressMonitored : Statement .startCompressMonitored := fun _ => by simp [encode, Instr.symbol, expected]
theorem startReserved : Statement .startReserved := fun _ => by simp [encode, Instr.symbol, expected]
theorem startExpand (ignored : BitVec 2) : Statement (.startExpand ignored) := fun _ => by simp [encode, Instr.symbol, expected]
theorem status : Statement .status := fun _ => rfl
theorem dictInit : Statement .dictInit := fun _ => rfl
theorem dictLongestPrefixOf (i : Nat) : Statement (.dictLongestPrefixOf i) := fun _ => rfl
theorem dictGet (s : Str) : Statement (.dictGet s) := fun _ => rfl
theorem dictInsert (s : Str) (b : Byte) : Statement (.dictInsert s b) := fun _ => rfl
theorem tabInit : Statement .tabInit := fun _ => rfl
theorem tabLookup (c : Codeword) : Statement (.tabLookup c) := fun _ => rfl
theorem tabAppend (s : Str) : Statement (.tabAppend s) := fun _ => rfl
theorem wcInit : Statement .wcInit := fun _ => rfl
theorem wcIsFull (side : Dir) : Statement (.wcIsFull side) := fun _ => rfl
theorem wcGrow : Statement .wcGrow := fun _ => rfl
theorem wcShouldGrow (side : Dir) : Statement (.wcShouldGrow side) := fun _ => rfl
theorem wcGrowthCheck (side : Dir) : Statement (.wcGrowthCheck side) := fun _ => rfl
theorem rpCheck (side : Dir) : Statement (.rpCheck side) := fun _ => rfl
theorem rpReset (side : Dir) : Statement (.rpReset side) := fun _ => rfl
theorem rpCheckNone : Statement .rpCheckNone := fun _ => rfl
theorem rpCheckPeriodic (side : Dir) : Statement (.rpCheckPeriodic side) := fun _ => rfl
theorem rpCheckMonitored (side : Dir) : Statement (.rpCheckMonitored side) := fun _ => rfl
theorem rtUpdate (t : Nat) : Statement (.rtUpdate t) := fun _ => rfl
theorem rtCapture : Statement .rtCapture := fun _ => rfl
theorem rtDegraded : Statement .rtDegraded := fun _ => rfl
theorem encStart (mode : Mode) : Statement (.encStart mode) := fun _ => rfl
theorem encStep : Statement .encStep := fun _ => rfl
theorem encEof : Statement .encEof := fun _ => rfl
theorem decStart : Statement .decStart := fun _ => rfl
theorem decFirst : Statement .decFirst := fun _ => rfl
theorem decNext : Statement .decNext := fun _ => rfl
theorem tagWrite (mode : Mode) : Statement (.tagWrite mode) := fun _ => rfl
theorem tagRead : Statement .tagRead := fun _ => rfl
theorem bitWrite (v : Codeword) (n : Nat) : Statement (.bitWrite v n) := fun _ => rfl
theorem bitRead (n : Nat) : Statement (.bitRead n) := fun _ => rfl
theorem bitClose : Statement .bitClose := fun _ => rfl
theorem inByte (i : Nat) : Statement (.inByte i) := fun _ => rfl
theorem outBytes (s : Str) : Statement (.outBytes s) := fun _ => rfl

end Sys2Proof.Laws.SymbolLength
end

