-- ==== Sys2Proof/Laws/Run.lean ====
section
/-! SUPPORT. What one symbol does, by the fields it touches: the shapes of the updates that a symbol's step is made of,
and every next state of a step taken during a run. A proof about all steps of a run splits along `run_cases` and
rewrites with the shapes. -/

namespace Sys2Proof.Machine

/-! Shapes of the shared updates. -/

/-- The growth check touches W and L only, and raises W by at most one (R98, R101). -/
theorem growthCheck_shape (d : Dir) (s : State) :
    ∃ w l, growthCheck d s = { s with w := w, l := l } ∧ (w = s.w ∨ w = s.w + 1) := by
  rcases growthCheck_cases d s with ⟨-, -, e⟩ | ⟨-, e⟩
  · exact ⟨_, _, e, .inr rfl⟩
  · exact ⟨s.w, s.l, e, .inl rfl⟩

/-- The tracker's update touches U and C only, and those only in mode MONITORED (R114). -/
theorem rtUpdate_shape (n : Nat) (s : State) :
    ∃ u c, rtUpdate n s = { s with u := u, c := c } ∧ (s.mode ≠ .monitored → u = s.u ∧ c = s.c) := by
  rcases rtUpdate_cases n s with ⟨hm, e⟩ | ⟨-, e⟩
  · exact ⟨_, _, e, fun h => absurd hm h⟩
  · exact ⟨s.u, s.c, e, fun _ => ⟨rfl, rfl⟩⟩

/-- A policy check leaves the control registers, the cursors, the buffers and the streams alone; W and ST stay, or the
reset has restarted the width state (R107, R108). -/
theorem rpCheck_shape (d : Dir) (s : State) :
    ((rpCheck d s).mode = s.mode ∧ (rpCheck d s).dir = s.dir ∧ (rpCheck d s).input = s.input ∧
      (rpCheck d s).inbits = s.inbits ∧ (rpCheck d s).outbits = s.outbits ∧ (rpCheck d s).outb = s.outb ∧
      (rpCheck d s).err = s.err ∧ (rpCheck d s).errinfo = s.errinfo ∧ (rpCheck d s).cur = s.cur ∧
      (rpCheck d s).rp = s.rp ∧ (rpCheck d s).request = s.request) ∧
    (((rpCheck d s).w = s.w ∧ (rpCheck d s).st = s.st) ∨
      ((rpCheck d s).w = 9 ∧ (rpCheck d s).l = 512 ∧ (rpCheck d s).cc = 257 ∧ s.mode ≠ .none ∧
        (rpCheck d s).st = if d = .dec then .awaitFirst else s.st)) := by
  rcases rpCheck_cases d s with ⟨h, e⟩ | ⟨-, -, e⟩ | ⟨-, -, e⟩ <;> rw [e]
  · have hm : s.mode ≠ .none := by rcases h with ⟨h, -⟩ | ⟨h, -⟩ <;> simp [h]
    cases d <;> simp [rpReset_enc, rpReset_dec, restartWidth, hm, dictInit, tabInit, clearTracker, wcInit]
  · simp [rtCapture]
  · simp

/-- Parts 2 to 5 of ENC.step: the codeword written, DICT, CC, the tracker and the width state set, then the policy check,
then CUR (R128). -/
theorem encEmit_shape (found : Str) (code : Codeword) (s : State) :
    ∃ d cc u c w l,
      encEmit found code s = { rpCheck .enc { s with
        outbits := s.outbits ++ bitsOfNat s.w code.toNat, dict := d, cc := cc, u := u, c := c, w := w, l := l } with
        cur := s.cur + found.length } ∧ (w = s.w ∨ w = s.w + 1) := by
  unfold encEmit postStep
  obtain ⟨u, c, e, -⟩ := rtUpdate_shape found.length (bitWrite code s.w s)
  simp only [e]
  have hx : ∃ d cc, encInsert found { bitWrite code s.w s with u := u, c := c } =
      { bitWrite code s.w s with u := u, c := c, dict := d, cc := cc } := by
    rcases encInsert_cases found { bitWrite code s.w s with u := u, c := c } with ⟨b, -, -, e⟩ | ⟨-, e⟩
    · exact ⟨_, _, e⟩
    · exact ⟨s.dict, s.cc, e⟩
  obtain ⟨d, cc, hx⟩ := hx
  simp only [hx]
  obtain ⟨w, l, e, hw⟩ := growthCheck_shape .enc { bitWrite code s.w s with u := u, c := c, dict := d, cc := cc }
  simp only [e]
  exact ⟨d, cc, u, c, w, l, by simp [bitWrite], hw⟩

/-- DEC.next after its value is known: TAB changes at CC only, the value is output and becomes PRIOR, the tracker and
the width state are set, then the policy check (R147). -/
theorem decNextValue_shape (p : Str) (b : Byte) (more : Str) (s : State) :
    ∃ tab cc u c w l,
      decNextValue p b more s = rpCheck .dec { s with
        tab := tab, cc := cc, outb := s.outb ++ b :: more, prior := some (b :: more), u := u, c := c, w := w, l := l } ∧
      (∀ j, j ≠ s.cc → assocGet tab j = tabGet s j) ∧ (s.mode ≠ .monitored → u = s.u ∧ c = s.c) ∧
      (w = s.w ∨ w = s.w + 1) := by
  unfold decNextValue postStep
  have hx : ∃ tab cc, decAppend p b s = { s with tab := tab, cc := cc } ∧
      ∀ j, j ≠ s.cc → assocGet tab j = tabGet s j := by
    rcases decAppend_cases p b s with ⟨-, e⟩ | ⟨-, e⟩
    · refine ⟨_, _, e, fun j hj => ?_⟩
      have := tabGet_tabAppend (p ++ [b]) s j
      rwa [if_neg hj] at this
    · exact ⟨s.tab, s.cc, e, fun _ _ => rfl⟩
  obtain ⟨tab, cc, e, ht⟩ := hx
  simp only [e]
  obtain ⟨u, c, e, hu⟩ := rtUpdate_shape (b :: more).length
    { outBytes (b :: more) { s with tab := tab, cc := cc } with prior := some (b :: more) }
  rw [e]
  obtain ⟨w, l, e, hw⟩ := growthCheck_shape .dec
    { outBytes (b :: more) { s with tab := tab, cc := cc } with prior := some (b :: more), u := u, c := c }
  rw [e]
  exact ⟨tab, cc, u, c, w, l, rfl, ht, hu, hw⟩

/-- DEC.first after its value is known: no entry is defined (R145). -/
theorem decFirstValue_shape (v : Str) (s : State) :
    ∃ u c w l,
      decFirstValue v s = { rpCheck .dec { s with
        outb := s.outb ++ v, prior := some v, u := u, c := c, w := w, l := l } with st := .running } ∧
      (w = s.w ∨ w = s.w + 1) := by
  unfold decFirstValue postStep
  obtain ⟨u, c, e, -⟩ := rtUpdate_shape v.length { outBytes v s with prior := some v }
  simp only [e]
  obtain ⟨w, l, e, hw⟩ := growthCheck_shape .dec { outBytes v s with prior := some v, u := u, c := c }
  simp only [e]
  exact ⟨u, c, w, l, rfl, hw⟩

/-! Steps of a run. -/

/-- The class that a codeword has is the instruction that runs (R65). -/
theorem runClass_exec {c : Codeword} {s : State} {i : Instr} (h : classify s.st s.cc c = some i) (hh : s.st ≠ .halted) :
    runClass c s = exec i s := by
  unfold runClass
  cases hs : s.st with
  | halted => exact absurd hs hh
  | awaitFirst =>
    rw [hs] at h
    rcases classify_awaitFirst s.cc c with ⟨-, h2⟩ | ⟨-, h2⟩ | ⟨-, h2⟩ <;> rw [h2] at h ⊢ <;> cases h <;> simp [exec]
  | running =>
    rw [hs] at h
    rcases classify_running s.cc c with ⟨-, h2⟩ | ⟨-, h2⟩ | ⟨-, -, h2⟩ | ⟨-, -, h2⟩ | ⟨-, -, h2⟩ <;>
      rw [h2] at h ⊢ <;> cases h <;> simp [exec]

/-- During a run only STATUS among the host's transactions is taken (R168, R169). -/
theorem status_of_request {s t : State} {r : Request} (hs : s.st ≠ .halted)
    (h : exec (decodeRequest r) { s with request := none } = .next t) :
    t = { s with request := none, result := .status s.st.code s.err.code s.errinfo } := by
  cases r with
  | status => simpa [decodeRequest, exec, execStatus, answer] using h.symm
  | start cmd =>
    exfalso
    revert h
    simp only [decodeRequest]
    unfold decodeCmd
    split <;> (try split) <;> (try split) <;> (try split) <;> cases hh : s.st <;>
      simp_all [exec, execStartExpand, execDecStart, execStartCompressNone, execStartCompressPeriodic,
        execStartCompressMonitored, execEncStart, execStartReserved]

/-- Every next state of a step taken during a run: STATUS; ENC.step; ENC.eof; a failed read; and, for a codeword that
was read, EOF, out of range, the first value of an epoch, or a further value (R127, R142 to R147). -/
theorem run_cases {s t : State} (hs : s.st ≠ .halted) (h : step s = .next t) :
    (s.request ≠ none ∧ t = { s with request := none, result := .status s.st.code s.err.code s.errinfo }) ∨
    (s.request = none ∧ s.st = .running ∧ s.dir = .enc ∧ s.cur < s.input.length ∧
      ∃ found code, longestPrefix s.cur s = some found ∧ dictGet s found = some code ∧ t = encEmit found code s) ∨
    (s.request = none ∧ s.st = .running ∧ s.dir = .enc ∧ s.cur = s.input.length ∧
      t = { bitClose (bitWrite 256 s.w s) with st := .halted }) ∨
    (s.request = none ∧ s.dir = .dec ∧ bitRead s.w s = none ∧
      t = raise .truncatedStream (BitVec.ofNat 16 s.w) s) ∨
    (s.request = none ∧ s.dir = .dec ∧ ∃ c, bitRead s.w s = some (c, advance s.w s) ∧
      ((c.toNat = 256 ∧ t = { advance s.w s with st := .halted }) ∨
       (257 ≤ c.toNat ∧ (s.st = .awaitFirst ∨ s.cc < c.toNat) ∧ t = raise .codewordOutOfRange c (advance s.w s)) ∨
       (c.toNat < 256 ∧ s.st = .awaitFirst ∧ t = decFirstValue [c.setWidth 8] (advance s.w s)) ∨
       (s.st = .running ∧ ∃ p b more, s.prior = some p ∧ t = decNextValue p b more (advance s.w s) ∧
         ((c.toNat < 256 ∧ b :: more = [c.setWidth 8]) ∨
          (257 ≤ c.toNat ∧ c.toNat < s.cc ∧ tabGet s c.toNat = some (b :: more)) ∨
          (257 ≤ c.toNat ∧ c.toNat = s.cc ∧ ∃ q qs, p = q :: qs ∧ b :: more = p ++ [q]))))) := by
  rcases step_cases h with ⟨r, hr, hx⟩ | ⟨h1, h2, h3, h4, hx⟩ | ⟨h1, h2, h3, h4, hx⟩ | ⟨h1, -, h3, h4, h5⟩ |
    ⟨h1, -, h3, c, i, hb, hc, hx⟩
  · exact .inl ⟨by simp [hr], status_of_request hs hx⟩
  · exact .inr (.inl ⟨h1, h2, h3, h4, (execEncStep_next hx).2.2⟩)
  · exact .inr (.inr (.inl ⟨h1, h2, h3, h4, by simpa [exec, execEncEof, h2, h3, h4, inputLength] using hx.symm⟩))
  · exact .inr (.inr (.inr (.inl ⟨h1, h3, h4, h5⟩)))
  · refine .inr (.inr (.inr (.inr ⟨h1, h3, c, hb, ?_⟩)))
    cases hst : s.st with
    | halted => exact absurd hst hs
    | awaitFirst =>
      rw [hst] at hc
      rcases classify_awaitFirst s.cc c with ⟨x, e⟩ | ⟨x, e⟩ | ⟨x, e⟩ <;> rw [e] at hc <;> cases hc
      · exact .inl ⟨x, by simpa [exec, execCwEof, h3, hst] using hx.symm⟩
      · exact .inr (.inr (.inl ⟨x, rfl, by simpa [exec, execCwLit, h3, hst] using hx.symm⟩))
      · exact .inr (.inl ⟨x, .inl rfl, by simpa [exec, execCwOor, h3, hst, x] using hx.symm⟩)
    | running =>
      rw [hst] at hc
      rcases classify_running s.cc c with ⟨x, e⟩ | ⟨x, e⟩ | ⟨x, y, e⟩ | ⟨x, y, e⟩ | ⟨x, y, e⟩ <;> rw [e] at hc <;> cases hc
      · exact .inl ⟨x, by simpa [exec, execCwEof, h3, hst] using hx.symm⟩
      · have hx : decContinue (some [c.setWidth 8]) (advance s.w s) = .next t := by
          simpa [exec, execCwLit, h3, hst] using hx
        obtain ⟨p, b, more, hp, hn, rfl⟩ := decContinue_next hx
        exact .inr (.inr (.inr ⟨rfl, p, b, more, hp, rfl, .inl ⟨x, by simpa using hn.symm⟩⟩))
      · have hx : decContinue (tabLookup c (advance s.w s)) (advance s.w s) = .next t := by
          simpa [exec, execCwRef, h3, hst, x, y] using hx
        obtain ⟨p, b, more, hp, hn, rfl⟩ := decContinue_next hx
        have hn : tabGet s c.toNat = some (b :: more) := by rw [tabLookup, if_neg (by omega)] at hn; exact hn
        exact .inr (.inr (.inr ⟨rfl, p, b, more, hp, rfl, .inr (.inl ⟨x, y, hn⟩)⟩))
      · have hx : decContinue (oneAhead (advance s.w s)) (advance s.w s) = .next t := by
          simpa [exec, execCwKwkwk, h3, hst, show 257 ≤ s.cc by omega, y] using hx
        obtain ⟨p, b, more, hp, hn, rfl⟩ := decContinue_next hx
        refine .inr (.inr (.inr ⟨rfl, p, b, more, hp, rfl, .inr (.inr ⟨x, y, ?_⟩)⟩))
        cases hpp : p with
        | nil => rw [oneAhead, hp, hpp] at hn; cases hn
        | cons q qs => exact ⟨q, qs, rfl, by rw [oneAhead, hp, hpp] at hn; exact (Option.some.inj hn).symm⟩
      · exact .inr (.inl ⟨x, .inr y, by simpa [exec, execCwOor, h3, hst, x, y] using hx.symm⟩)

/-- Every next state of DEC.next: a failed read, EOF, out of range, or a value taken with RP past the codeword (R143,
R146, R147). -/
theorem execDecNext_next {s t : State} (h : exec .decNext s = .next t) :
    s.dir = .dec ∧ s.st = .running ∧
    (t = raise .truncatedStream (BitVec.ofNat 16 s.w) s ∨
     t = { advance s.w s with st := .halted } ∨
     (∃ c, t = raise .codewordOutOfRange c (advance s.w s)) ∨
     ∃ p b more, s.prior = some p ∧ t = decNextValue p b more (advance s.w s)) := by
  simp only [exec, execDecNext] at h
  split at h
  case isFalse => cases h
  case isTrue hd =>
    obtain ⟨hd, hs⟩ := hd
    refine ⟨hd, hs, ?_⟩
    unfold readCodeword at h
    cases hb : bitRead s.w s with
    | none => rw [hb] at h; exact .inl (by simpa using h.symm)
    | some r =>
      obtain ⟨c, s'⟩ := r
      obtain rfl : s' = advance s.w s := by
        unfold bitRead at hb; split at hb <;> cases hb; rfl
      rw [hb] at h
      simp only [runClass, advance, hs] at h
      have value : ∀ next, decContinue next (advance s.w s) = .next t →
          ∃ p b more, s.prior = some p ∧ t = decNextValue p b more (advance s.w s) := fun next hx => by
        obtain ⟨p, b, more, hp, -, e⟩ := decContinue_next hx
        exact ⟨p, b, more, hp, e⟩
      rcases classify_running s.cc c with ⟨-, e⟩ | ⟨-, e⟩ | ⟨x, y, e⟩ | ⟨x, y, e⟩ | ⟨x, y, e⟩ <;>
        simp only [e] at h
      · exact .inr (.inl (by simpa [execCwEof, hd, hs, advance] using h.symm))
      · exact .inr (.inr (.inr (value (some [c.setWidth 8]) (by simpa [execCwLit, hd, hs, advance] using h))))
      · exact .inr (.inr (.inr (value (tabLookup c (advance s.w s))
          (by simpa [execCwRef, hd, hs, advance, x, y] using h))))
      · exact .inr (.inr (.inr (value (oneAhead (advance s.w s))
          (by simpa [execCwKwkwk, hd, hs, advance, show 257 ≤ s.cc by omega, y] using h))))
      · exact .inr (.inr (.inl ⟨c, by simpa [execCwOor, hd, hs, advance, x, y] using h.symm⟩))

end Sys2Proof.Machine
end

