-- ==== Sys2Proof/Laws/Start.lean ====
section
/-! SUPPORT. The two stores as an init leaves them, in the terms of the invariants, and that a successful start leaves a
state that meets the invariants. -/

namespace Sys2Proof.Machine

/-- A halted state meets the invariants as soon as its stores are in canonical form. -/
theorem inv_of_halted {s : State} (h : s.st = .halted) (hs : s.storesWf) : s.Inv where
  width := fun hr => absurd h hr
  count := fun hr => absurd h hr
  control := by simp [State.controlInv, State.inRun, h]
  tracker := fun hr => absurd h hr
  dict := fun hr => absurd h hr
  tab := fun hr => absurd h hr
  stores := hs

/-- The contents of DICT after DICT.init, with CC = 257 (R81, R36). -/
theorem dictInit_contents (s : State) :
    (∀ b : Byte, dictGet (dictInit s) [b] = some (b.setWidth 16)) ∧
    (∀ k c, dictGet (dictInit s) k = some c → k.length = 1 ∨ (2 ≤ k.length ∧ 257 ≤ c.toNat ∧ c.toNat < 257)) ∧
    (∀ i, 257 ≤ i → i < 257 → ∃ k, dictGet (dictInit s) k = some (BitVec.ofNat 16 i)) ∧
    (∀ k k' c, dictGet (dictInit s) k = some c → dictGet (dictInit s) k' = some c → k = k') ∧
    (∀ k b c, k ≠ [] → dictGet (dictInit s) (k ++ [b]) = some c → ∃ c', dictGet (dictInit s) k = some c') := by
  have key : ∀ k c, dictGet (dictInit s) k = some c → ∃ b : Byte, k = [b] ∧ c = b.setWidth 16 := by
    intro k c h
    by_cases hk : k.length = 1
    · obtain ⟨b, rfl⟩ := List.length_eq_one_iff.1 hk
      rw [dictGet_dictInit_single] at h
      exact ⟨b, rfl, (Option.some.inj h).symm⟩
    · rw [dictGet_dictInit_other s k hk] at h; cases h
  refine ⟨dictGet_dictInit_single s, fun k c h => ?_, fun i h1 h2 => by omega, fun k k' c h h' => ?_,
    fun k b c hk h => ?_⟩
  · obtain ⟨b, rfl, -⟩ := key k c h
    exact .inl rfl
  · obtain ⟨b, rfl, e⟩ := key k c h
    obtain ⟨b', rfl, e'⟩ := key k' c h'
    have hn := congrArg BitVec.toNat (e.symm.trans e')
    simp only [BitVec.toNat_setWidth] at hn
    have := b.isLt
    have := b'.isLt
    rw [BitVec.eq_of_toNat_eq (x := b) (y := b') (by omega)]
  · obtain ⟨b', e, -⟩ := key _ c h
    have := congrArg List.length e
    simp at this
    exact absurd this hk

/-- The contents of TAB after TAB.init, with CC = 257 (R87, R36). -/
theorem tabInit_contents (s : State) :
    (∀ i, (∃ v, tabGet (tabInit s) i = some v) ↔ i < 256 ∨ (257 ≤ i ∧ i < 257)) ∧
    (∀ b : Byte, tabGet (tabInit s) b.toNat = some [b]) ∧
    (∀ i v, 257 ≤ i → tabGet (tabInit s) i = some v → 2 ≤ v.length) ∧
    (∀ i v b, v ≠ [] → tabGet (tabInit s) i = some (v ++ [b]) → ∃ j, tabGet (tabInit s) j = some v) := by
  have byteOf : ∀ i, i < 256 → i = (BitVec.ofNat 8 i).toNat := fun i hi => by simp; omega
  have key : ∀ i v, tabGet (tabInit s) i = some v → ∃ b : Byte, i = b.toNat ∧ v = [b] := by
    intro i v h
    by_cases hi : i < 256
    · rw [byteOf i hi, tabGet_tabInit_byte] at h
      exact ⟨_, byteOf i hi, (Option.some.inj h).symm⟩
    · rw [tabGet_tabInit_other s i (by omega)] at h; cases h
  refine ⟨fun i => ⟨fun ⟨v, h⟩ => ?_, fun h => ?_⟩, tabGet_tabInit_byte s, fun i v hi h => ?_, fun i v b hv h => ?_⟩
  · obtain ⟨b, rfl, -⟩ := key i v h
    exact .inl b.isLt
  · exact ⟨_, by rw [byteOf i (by omega)]; exact tabGet_tabInit_byte s _⟩
  · obtain ⟨b, rfl, -⟩ := key i v h
    have := b.isLt
    omega
  · obtain ⟨b', -, e⟩ := key i _ h
    have := congrArg List.length e
    simp at this
    exact absurd this hv

/-- ENC.start leaves a state that meets the invariants (R126, R191). -/
theorem encLoad_inv (s : State) (m : Mode) (hs : s.storesWf) : (encLoad m s).Inv where
  width := fun _ => by simp [encLoad, tagWrite, restartWidth]
  count := fun _ => by simp [encLoad, tagWrite, restartWidth, dictInit, lag]
  control := by simp [State.controlInv, encLoad, tagWrite, restartWidth, dictInit]
  tracker := fun _ => by simp [encLoad, tagWrite, restartWidth]
  dict := fun _ _ => dictInit_contents s
  tab := fun _ h => by simp [encLoad, tagWrite, restartWidth, dictInit] at h
  stores := ⟨dictInit_wf s, hs.2⟩

/-- What DEC.start does after a recognised tag leaves a state that meets the invariants (R141, R191). -/
theorem decLoad_inv (s : State) (hd : s.dir = .dec) (he : s.err = .none) (hi : s.errinfo = 0)
    (hr : s.rp ≤ s.inbits.length) (hs : s.storesWf) : (decLoad s).Inv where
  width := fun _ => by simp [decLoad, restartWidth]
  count := fun _ => by simp [decLoad, restartWidth, hd, lag]
  control := by simp [State.controlInv, decLoad, restartWidth, hd, he, hi, hr]
  tracker := fun _ => by simp [decLoad, restartWidth]
  dict := fun _ h => by simp [decLoad, restartWidth, hd] at h
  tab := fun _ _ => tabInit_contents s
  stores := ⟨hs.1, tabInit_wf s⟩

end Sys2Proof.Machine
end

