-- ==== Sys2Proof/Tests/Slice0.lean ====
section
/-! SUPPORT. Tests. Expected values come from the spec: the operations' own examples, the encodings of
spec/30_encoding.md and the worked runs of R137 and R155. Then, for every statement with hypotheses, a concrete state and
operands that meet them together, one theorem for each clause. -/

namespace Sys2Proof.Tests

open Sys2Proof.Machine

/-! ## Helpers -/

/-- The next state of an outcome; State.reset where there is none. -/
def after : Host.Outcome State Fault Refusal → State
  | .next t => t
  | .fault _ => State.reset
  | .refused _ => State.reset

/-- Whether the outcome is a next state. -/
def goesOn : Host.Outcome State Fault Refusal → Bool
  | .next _ => true
  | .fault _ => false
  | .refused _ => false

theorem eq_next_of_goesOn {o : Host.Outcome State Fault Refusal} (h : goesOn o = true) : o = .next (after o) := by
  cases o <;> simp_all [goesOn, after]

/-- An Encoder in Running on a three-byte input, DICT cut down to two single bytes. -/
def encoder : State :=
  { State.reset with st := .running, input := [0x41, 0x42, 0x41], dict := [([0x41], 0x41), ([0x42], 0x42)] }

/-- A Decoder in Running, TAB cut down to two single bytes, PRIOR = A. -/
def decoder : State :=
  { State.reset with dir := .dec, st := .running, tab := [(0x41, [0x41]), (0x42, [0x42])], prior := some [0x41] }

/-- A Decoder in AwaitFirst. -/
def awaiting : State := { decoder with st := .awaitFirst, prior := none }

/-- A halted instance with a command waiting. -/
def commanded (cmd : BitVec 3) : State := { State.reset with request := some (.start cmd) }

/-! ## Well-formedness: an ill-formed term for each check is refused -/

theorem test_wf_tagInvalid : (Instr.tagInvalid 0x6E).WellFormed = false ∧ (Instr.tagInvalid 0x72).WellFormed = false ∧
    (Instr.tagInvalid 0x6D).WellFormed = false ∧ (Instr.tagInvalid 0x1F).WellFormed = true := by decide
theorem test_wf_cwRef : (Instr.cwRef 256).WellFormed = false ∧ (Instr.cwRef 257).WellFormed = true := by decide
theorem test_wf_cwKwkwk : (Instr.cwKwkwk 256).WellFormed = false ∧ (Instr.cwKwkwk 257).WellFormed = true := by decide
theorem test_wf_cwOor : (Instr.cwOor 256).WellFormed = false ∧ (Instr.cwOor 257).WellFormed = true := by decide
theorem test_wf_dictGet : (Instr.dictGet []).WellFormed = false ∧ (Instr.dictGet [0]).WellFormed = true := by decide
theorem test_wf_dictInsert : (Instr.dictInsert [] 0x41).WellFormed = false := by decide
theorem test_wf_tabLookup : (Instr.tabLookup 256).WellFormed = false ∧ (Instr.tabLookup 255).WellFormed = true := by decide
theorem test_wf_tabAppend : (Instr.tabAppend [0x41]).WellFormed = false ∧ (Instr.tabAppend [0x41, 0x42]).WellFormed = true := by
  decide
theorem test_wf_rtUpdate : (Instr.rtUpdate 0).WellFormed = false ∧ (Instr.rtUpdate 1).WellFormed = true := by decide
theorem test_wf_bitWrite : (Instr.bitWrite 0 0).WellFormed = false ∧ (Instr.bitWrite 0 17).WellFormed = false ∧
    (Instr.bitWrite 8 3).WellFormed = false ∧ (Instr.bitWrite 7 3).WellFormed = true := by decide
theorem test_wf_bitRead : (Instr.bitRead 0).WellFormed = false ∧ (Instr.bitRead 17).WellFormed = false ∧
    (Instr.bitRead 16).WellFormed = true := by decide
theorem test_wf_outBytes : (Instr.outBytes []).WellFormed = false ∧ (Instr.outBytes [0]).WellFormed = true := by decide

/-! ## Decoding: words written out bit by bit from R61 to R65 and R70 -/

theorem test_decode_tagNone : decodeSymbol .tag [false, true, true, false, true, true, true, false, true] =
    .ok (.tagNone, [true]) := rfl
theorem test_decode_tagPeriodic : decodeSymbol .tag [false, true, true, true, false, false, true, false] =
    .ok (.tagPeriodic, []) := rfl
theorem test_decode_tagMonitored : decodeSymbol .tag [false, true, true, false, true, true, false, true] =
    .ok (.tagMonitored, []) := rfl
theorem test_decode_tagInvalid : decodeSymbol .tag [false, false, false, true, true, true, true, true] =
    .ok (.tagInvalid 0x1F, []) := rfl
theorem test_decode_tag_short : decodeSymbol .tag [false, true, true, false, true, true, true] =
    .error (.exhausted 8) := rfl
theorem test_decode_cwLit : decodeSymbol (.codeword 9 .awaitFirst 257)
    [false, false, true, false, false, false, false, false, true] = .ok (.cwLit 0x41, []) := rfl
theorem test_decode_cwEof : decodeSymbol (.codeword 10 .running 600)
    [false, true, false, false, false, false, false, false, false, false] = .ok (.cwEof, []) := rfl
theorem test_decode_cwRef : decodeSymbol (.codeword 9 .running 259)
    [true, false, false, false, false, false, false, true, false] = .ok (.cwRef 258, []) := rfl
theorem test_decode_cwKwkwk : decodeSymbol (.codeword 9 .running 259)
    [true, false, false, false, false, false, false, true, true] = .ok (.cwKwkwk 259, []) := rfl
theorem test_decode_cwOor : decodeSymbol (.codeword 9 .running 257)
    [true, false, false, true, false, true, true, false, false] = .ok (.cwOor 300, []) := rfl
theorem test_decode_cwOor_first : decodeSymbol (.codeword 9 .awaitFirst 257)
    [true, false, false, false, false, false, false, false, true] = .ok (.cwOor 257, []) := rfl
theorem test_decode_startCompressNone : decodeSymbol .command [false, false, false] = .ok (.startCompressNone, []) := rfl
theorem test_decode_startCompressPeriodic :
    decodeSymbol .command [false, false, true] = .ok (.startCompressPeriodic, []) := rfl
theorem test_decode_startCompressMonitored :
    decodeSymbol .command [false, true, false] = .ok (.startCompressMonitored, []) := rfl
theorem test_decode_startReserved : decodeSymbol .command [false, true, true] = .ok (.startReserved, []) := rfl
theorem test_decode_startExpand : decodeSymbol .command [true, true, false] = .ok (.startExpand 2, []) := rfl

/-- The bytes `6E 20 C0 00` of R72's example are the bits it writes out. -/
theorem test_unpack_example : unpackBytes [0x6E, 0x20, 0xC0, 0x00] =
    [false, true, true, false, true, true, true, false] ++
    [false, false, true, false, false, false, false, false, true] ++
    [true, false, false, false, false, false, false, false, false] ++ List.replicate 6 false := by decide
/-- Packing the 26 bits before the pad gives the same bytes. -/
theorem test_pack_example : packBits ([false, true, true, false, true, true, true, false] ++
    [false, false, true, false, false, false, false, false, true] ++
    [true, false, false, false, false, false, false, false, false]) = [0x6E, 0x20, 0xC0, 0x00] := by decide

/-! ## The table's words -/

theorem test_word_tags : decodeTableWord 8 0x6E = some .tagNone ∧ decodeTableWord 8 0x72 = some .tagPeriodic ∧
    decodeTableWord 8 0x6D = some .tagMonitored ∧ decodeTableWord 8 0x1F = some (.tagInvalid 0x1F) := by decide
theorem test_word_commands : decodeTableWord 8 0 = some .startCompressNone ∧
    decodeTableWord 8 1 = some .startCompressPeriodic ∧ decodeTableWord 8 2 = some .startCompressMonitored ∧
    decodeTableWord 8 3 = some .startReserved ∧ decodeTableWord 8 4 = some (.startExpand 0) := by decide
theorem test_word_codewords : decodeTableWord 16 0x41 = some (.cwLit 0x41) ∧ decodeTableWord 16 0x100 = some .cwEof ∧
    decodeTableWord 16 0x101 = some (.cwOor 257) := by decide
/-- The tag's word is read by the START.EXPAND that the very next step takes. -/
theorem test_word_runs_tag : (after (step (State.reset.withFetchWord 8 0x72))).mode = .periodic ∧
    (after (step (State.reset.withFetchWord 8 0x72))).st = .awaitFirst := by decide
theorem test_word_runs_codeword : (after (step (State.reset.withFetchWord 16 0x41))).outb = [0x41] ∧
    (after (step (State.reset.withFetchWord 16 0x100))).st = .halted := by decide

/-! ## One step of each instruction -/

/-- R163. -/
theorem test_tags : (after (exec .tagNone State.reset)).mode = .none ∧
    (after (exec .tagPeriodic State.reset)).mode = .periodic ∧
    (after (exec .tagMonitored State.reset)).mode = .monitored := by decide
/-- R174: the byte 0x1F. -/
theorem test_tagInvalid : (after (exec (.tagInvalid 0x1F) State.reset)).err = .malformedModeTag ∧
    (after (exec (.tagInvalid 0x1F) State.reset)).errinfo = 0x001F := by decide
/-- R145: `tag:n 'A'@9`. -/
theorem test_cwLit_first : (after (exec (.cwLit 0x41) awaiting)).outb = [0x41] ∧
    (after (exec (.cwLit 0x41) awaiting)).prior = some [0x41] ∧ (after (exec (.cwLit 0x41) awaiting)).cc = 257 ∧
    (after (exec (.cwLit 0x41) awaiting)).st = .running := by decide
/-- R155, step 2. -/
theorem test_cwLit_next : (after (exec (.cwLit 0x42) decoder)).outb = [0x42] ∧
    tabGet (after (exec (.cwLit 0x42) decoder)) 257 = some [0x41, 0x42] ∧
    (after (exec (.cwLit 0x42) decoder)).cc = 258 := by decide
/-- R155, step 5. -/
theorem test_cwEof : (after (exec .cwEof decoder)).st = .halted ∧ (after (exec .cwEof decoder)).err = .none := by decide

/-- The Decoder of R155 after step 2. -/
def decoderAB : State :=
  { decoder with tab := [(0x41, [0x41]), (0x42, [0x42]), (257, [0x41, 0x42])], cc := 258, prior := some [0x42] }
/-- The Decoder of R155 after step 3. -/
def decoderBA : State :=
  { decoderAB with
    tab := [(0x41, [0x41]), (0x42, [0x42]), (257, [0x41, 0x42]), (258, [0x42, 0x41])], cc := 259, prior := some [0x41, 0x42] }

/-- R155, step 3: `257@9` is AB and appends BA at 258. -/
theorem test_cwRef : (after (exec (.cwRef 257) decoderAB)).outb = [0x41, 0x42] ∧
    tabGet (after (exec (.cwRef 257) decoderAB)) 258 = some [0x42, 0x41] ∧
    (after (exec (.cwRef 257) decoderAB)).cc = 259 := by decide
/-- R155, step 4: `259@9` is ABA and appends it at 259. -/
theorem test_cwKwkwk : (after (exec (.cwKwkwk 259) decoderBA)).outb = [0x41, 0x42, 0x41] ∧
    tabGet (after (exec (.cwKwkwk 259) decoderBA)) 259 = some [0x41, 0x42, 0x41] ∧
    (after (exec (.cwKwkwk 259) decoderBA)).cc = 260 := by decide
/-- R176: 300 with CC = 257. -/
theorem test_cwOor : (after (exec (.cwOor 300) decoder)).err = .codewordOutOfRange ∧
    (after (exec (.cwOor 300) decoder)).errinfo = 300 ∧ (after (exec (.cwOor 300) decoder)).outb = [] := by decide
/-- R162, R166. -/
theorem test_startCompress : (after (exec .startCompressNone State.reset)).outbits =
      [false, true, true, false, true, true, true, false] ∧
    (after (exec .startCompressPeriodic State.reset)).outbits =
      [false, true, true, true, false, false, true, false] ∧
    (after (exec .startCompressMonitored State.reset)).mode = .monitored := by decide
/-- R169. -/
theorem test_start_refused_in_a_run : exec .startCompressNone encoder = .refused .startWhileRunning ∧
    exec (.startExpand 0) decoder = .refused .startWhileRunning := ⟨rfl, rfl⟩
/-- R70. -/
theorem test_startReserved : exec .startReserved State.reset = .refused .reservedMode := rfl
/-- R141: INBITS begins "01110010". -/
theorem test_startExpand :
    (after (exec (.startExpand 3) { State.reset with inbits := [false, true, true, true, false, false, true, false] })).mode =
      .periodic ∧
    (after (exec (.startExpand 3) { State.reset with inbits := [false, true, true, true, false, false, true, false] })).rp =
      8 := by decide
/-- R39, R168. -/
theorem test_status : (after (exec .status State.reset)).result = .status 0 0 0 ∧
    (after (exec .status awaiting)).result = .status 1 0 0 := by decide
/-- R81. -/
theorem test_dictInit : dictGet (after (exec .dictInit State.reset)) [0x41] = some 65 ∧
    dictGet (after (exec .dictInit State.reset)) [0x41, 0x42] = none :=
  ⟨by decide, dictGet_dictInit_other _ _ (by decide)⟩
/-- R82: AB and BA are keys, the input is ABA, i = 0. -/
theorem test_dictLongestPrefixOf : (after (exec (.dictLongestPrefixOf 0) { encoder with
      dict := [([0x41], 0x41), ([0x41, 0x42], 257), ([0x42], 0x42), ([0x42, 0x41], 258)] })).result =
    .matched 2 [0x41, 0x42] ∧
    exec (.dictLongestPrefixOf 3) encoder = .refused .operandOutsideContract := ⟨by decide, rfl⟩
/-- R83. -/
theorem test_dictGet : (after (exec (.dictGet [0x41]) encoder)).result = .codeword 65 := by decide
/-- R84: CC = 257, s = A, b = B. -/
theorem test_dictInsert : dictGet (after (exec (.dictInsert [0x41] 0x42) encoder)) [0x41, 0x42] = some 257 ∧
    (after (exec (.dictInsert [0x41] 0x42) encoder)).cc = 258 := by decide
/-- R87. -/
theorem test_tabInit : tabGet (after (exec .tabInit State.reset)) 65 = some [0x41] ∧
    tabGet (after (exec .tabInit State.reset)) 257 = none :=
  ⟨by decide, tabGet_tabInit_other _ _ (by decide)⟩
/-- R88. -/
theorem test_tabLookup : (after (exec (.tabLookup 257) decoderAB)).result = .string [0x41, 0x42] ∧
    (after (exec (.tabLookup 0) State.reset)).result = .string [0] := by decide
/-- R90: CC = 257, s = AB. -/
theorem test_tabAppend : tabGet (after (exec (.tabAppend [0x41, 0x42]) decoder)) 257 = some [0x41, 0x42] ∧
    (after (exec (.tabAppend [0x41, 0x42]) decoder)).cc = 258 := by decide
/-- R96: after a reset from W = 16. -/
theorem test_wcInit : (after (exec .wcInit { encoder with w := 16, l := 65536 })).w = 9 ∧
    (after (exec .wcInit { encoder with w := 16, l := 65536 })).l = 512 := by decide
/-- R97: Encoder CC = 512, Decoder CC = 511. -/
theorem test_wcIsFull : (after (exec (.wcIsFull .enc) { encoder with cc := 512 })).result = .bool true ∧
    (after (exec (.wcIsFull .dec) { decoder with cc := 511 })).result = .bool true ∧
    (after (exec (.wcIsFull .enc) { encoder with cc := 511 })).result = .bool false := by decide
/-- R98. -/
theorem test_wcGrow : (after (exec .wcGrow encoder)).l = 1024 ∧
    (after (exec .wcGrow { encoder with w := 16, l := 65536 })).l = 65536 := by decide
/-- R100. -/
theorem test_wcShouldGrow :
    (after (exec (.wcShouldGrow .enc) { encoder with cc := 1024, l := 1024, w := 10 })).result = .bool true ∧
    (after (exec (.wcShouldGrow .dec) { decoder with cc := 1023, l := 1024, w := 10 })).result = .bool true ∧
    (after (exec (.wcShouldGrow .dec) { decoder with cc := 1024, l := 1024, w := 10 })).result = .bool false := by decide
/-- R101. -/
theorem test_wcGrowthCheck : (after (exec (.wcGrowthCheck .enc) { encoder with cc := 512 })).w = 10 ∧
    (after (exec (.wcGrowthCheck .dec) { decoder with cc := 511 })).w = 10 ∧
    (after (exec (.wcGrowthCheck .dec) { decoder with cc := 512 })).w = 9 := by decide

/-- An Encoder at the step that makes CC = 65536 at W = 16. -/
def fullEncoder : State := { encoder with w := 16, l := 65536, cc := 65536, u := 3563512, c := 981239 }

/-- R107, R108: PERIODIC, end of the step that fills the table. -/
theorem test_rpCheck : (after (exec (.rpCheck .enc) { fullEncoder with mode := .periodic })).cc = 257 ∧
    (after (exec (.rpCheck .enc) { fullEncoder with mode := .none })).cc = 65536 := by decide
/-- R108. -/
theorem test_rpReset : (after (exec (.rpReset .enc) fullEncoder)).st = .running ∧
    (after (exec (.rpReset .dec) decoder)).st = .awaitFirst ∧ (after (exec (.rpReset .dec) decoder)).prior = none ∧
    (after (exec (.rpReset .enc) fullEncoder)).u = 0 := by decide
/-- R109. -/
theorem test_rpCheckNone : exec .rpCheckNone fullEncoder = .next fullEncoder := rfl
/-- R110: 32768 at W = 16 does nothing; the Decoder resets one early. -/
theorem test_rpCheckPeriodic : (after (exec (.rpCheckPeriodic .enc) { fullEncoder with cc := 32768 })).cc = 32768 ∧
    (after (exec (.rpCheckPeriodic .dec) { fullEncoder with cc := 65535 })).cc = 257 := by decide
/-- R111, run L2-M: the capture at step 65279, then the reset at step 80970. -/
theorem test_rpCheckMonitored : (after (exec (.rpCheckMonitored .enc) fullEncoder)).bu = 3563512 ∧
    (after (exec (.rpCheckMonitored .enc) fullEncoder)).mon = true ∧
    (after (exec (.rpCheckMonitored .enc)
      { fullEncoder with bu := 3563512, bc := 981239, mon := true, u := 4068408, c := 1232295 })).cc = 257 := by decide
/-- R114: symbol A at width 9. -/
theorem test_rtUpdate : (after (exec (.rtUpdate 1) { encoder with mode := .monitored })).u = 8 ∧
    (after (exec (.rtUpdate 1) { encoder with mode := .monitored })).c = 9 ∧
    (after (exec (.rtUpdate 1) encoder)).u = 0 := by decide
/-- R115. -/
theorem test_rtCapture : (after (exec .rtCapture fullEncoder)).bc = 981239 ∧
    (after (exec .rtCapture fullEncoder)).mon = true := by decide
/-- R116: the example, and the equality case counts as degraded. -/
theorem test_rtDegraded : (after (exec .rtDegraded
      { encoder with bu := 3563512, bc := 981239, u := 4068408, c := 1232295 })).result = .bool true ∧
    (after (exec .rtDegraded { encoder with bu := 11, bc := 1, u := 10, c := 1 })).result = .bool true ∧
    (after (exec .rtDegraded { encoder with bu := 109, bc := 1, u := 100, c := 1 })).result = .bool false := by decide
/-- R126. -/
theorem test_encStart : (after (exec (.encStart .none) State.reset)).outbits =
      [false, true, true, false, true, true, true, false] ∧
    (after (exec (.encStart .none) State.reset)).st = .running := by decide

/-- The Encoder of R128's example. -/
def encoderABA : State :=
  { encoder with
    input := [0x41, 0x42, 0x41, 0x42, 0x41, 0x42, 0x41], cur := 2, cc := 259
    dict := [([0x41], 0x41), ([0x41, 0x42], 257), ([0x42], 0x42), ([0x42, 0x41], 258)] }

/-- R128: `257@9`, ABA at 259, CC = 260, CUR = 4. -/
theorem test_encStep : (after (exec .encStep encoderABA)).outbits =
      [true, false, false, false, false, false, false, false, true] ∧
    dictGet (after (exec .encStep encoderABA)) [0x41, 0x42, 0x41] = some 259 ∧
    (after (exec .encStep encoderABA)).cc = 260 ∧ (after (exec .encStep encoderABA)).cur = 4 := by decide
/-- R101: the step that inserts 511 at W = 9 grows, and its codeword still has 9 bits. -/
theorem test_encStep_grows : (after (exec .encStep { encoder with cc := 511 })).w = 10 ∧
    (after (exec .encStep { encoder with cc := 511 })).outbits.length = 9 := by decide
/-- R131: N = 0 gives `EOF@9 pad:7`. -/
theorem test_encEof : (after (exec .encEof (after (exec (.encStart .none) State.reset)))).outbits =
    [false, true, true, false, true, true, true, false] ++ true :: List.replicate 15 false := by decide
/-- R141: INBITS begins "00000000"; an empty stream. -/
theorem test_decStart : (after (exec .decStart { State.reset with inbits := List.replicate 9 false })).err =
      .malformedModeTag ∧
    (after (exec .decStart State.reset)).err = .truncatedStream ∧
    (after (exec .decStart State.reset)).errinfo = 8 := by decide
/-- R145; R175: 8 bits left of the 9 wanted. -/
theorem test_decFirst : (after (exec .decFirst { awaiting with
      inbits := [false, false, true, false, false, false, false, false, true] })).outb = [0x41] ∧
    (after (exec .decFirst { awaiting with inbits := List.replicate 8 false })).errinfo = 9 ∧
    (after (exec .decFirst { awaiting with inbits := List.replicate 8 false })).rp = 0 := by decide
/-- R147: `259@9` with CC = 259. -/
theorem test_decNext : (after (exec .decNext { decoderBA with
      inbits := [true, false, false, false, false, false, false, true, true] })).outb = [0x41, 0x42, 0x41] ∧
    (after (exec .decNext { decoderBA with
      inbits := [true, false, false, false, false, false, false, true, true] })).rp = 9 := by decide
/-- R162. -/
theorem test_tagWrite : (after (exec (.tagWrite .periodic) State.reset)).outbits =
    [false, true, true, true, false, false, true, false] := by decide
/-- R163. -/
theorem test_tagRead : (after (exec .tagRead { State.reset with
      inbits := [false, true, true, false, true, true, false, true] })).mode = .monitored ∧
    exec .tagRead decoder = .refused .notEnabled := ⟨by decide, rfl⟩
/-- R42: the most significant bit first. -/
theorem test_bitWrite : (after (exec (.bitWrite 0x8001 16) State.reset)).outbits =
    true :: List.replicate 14 false ++ [true] := by decide
/-- R43: the first bit read is the most significant; a short rest is Exhausted. -/
theorem test_bitRead : (after (exec (.bitRead 3) { State.reset with inbits := [false, true, true, false], rp := 1 })).result =
      .codeword 6 ∧
    (after (exec (.bitRead 3) { State.reset with inbits := [false, true, true, false], rp := 2 })).result = .exhausted ∧
    (after (exec (.bitRead 3) { State.reset with inbits := [false, true, true, false], rp := 2 })).rp = 2 := by decide
/-- R44; R137: 53 bits are padded to 56. -/
theorem test_bitClose : (after (exec .bitClose { State.reset with outbits := List.replicate 53 true })).outbits.length = 56 ∧
    (after (exec .bitClose { State.reset with outbits := List.replicate 16 true })).outbits.length = 16 := by decide
/-- R48. -/
theorem test_inByte : (after (exec (.inByte 1) encoder)).result = .byte 0x42 := by decide
/-- R49. -/
theorem test_outBytes : (after (exec (.outBytes [0x42, 0x43]) { decoder with outb := [0x41] })).outb =
    [0x41, 0x42, 0x43] := by decide

/-! ## Witnesses: the hypotheses of each statement are met together, clause by clause -/

/-! Encodings. -/

theorem test_witness_DecodeOfEncode :
    (Instr.cwRef 511).WellFormed = true ∧ (Instr.cwRef 511).inClass .running 512 = true ∧
    (Instr.cwRef 511).fits 9 = true ∧ awaitedFor 9 .running 512 (.cwRef 511) = some (.codeword 9 .running 512) ∧
    encode 9 (.cwRef 511) = some (List.replicate 9 true) := by decide
theorem test_witness_EncodeOfDecode : (16 : Nat) ≤ 16 ∧
    decodeSymbol (.codeword 16 .awaitFirst 257) (List.replicate 16 true) = .ok (.cwOor 0xFFFF, []) := ⟨le_rfl, rfl⟩
/-- The values where the classes meet: 255, 256, CC - 1, CC, CC + 1, and the greatest codeword with CC = 65536. -/
theorem test_witness_CodewordClassConditions : classify .running 300 255 = some (.cwLit 255) ∧
    classify .running 300 256 = some .cwEof ∧ classify .running 300 299 = some (.cwRef 299) ∧
    classify .running 300 300 = some (.cwKwkwk 300) ∧ classify .running 300 301 = some (.cwOor 301) ∧
    classify .awaitFirst 257 255 = some (.cwLit 255) ∧ classify .awaitFirst 257 256 = some .cwEof ∧
    classify .awaitFirst 257 257 = some (.cwOor 257) ∧
    classify .running 65536 0xFFFF = some (.cwRef 0xFFFF) := by decide
theorem test_witness_StreamBitOfByte : 15 < 8 * [(0x6E : Byte), 0x20].length ∧ 8 < (List.replicate 9 true).length := by
  decide

/-! What a step runs. -/

theorem test_witness_StepTakesTheHostCommand : (commanded 0b011).request = some (.start 0b011) ∧
    ({ encoder with request := some .status } : State).request = some .status := by decide
theorem test_witness_StepRunsDecodedCodeword : decoder.request = none ∧ decoder.dir = .dec ∧ decoder.st ≠ .halted ∧
    decodeSymbol (.codeword 9 .running 257) (true :: List.replicate 8 false) = .ok (.cwEof, []) :=
  ⟨rfl, rfl, by decide, rfl⟩
theorem test_witness_StepRunsTheEnabledOperation :
    (encoder.request = none ∧ encoder.dir = .enc ∧ encoder.st = .running ∧ encoder.cur < encoder.input.length) ∧
    ({ encoder with cur := 3 } : State).cur = encoder.input.length ∧
    (awaiting.request = none ∧ awaiting.dir = .dec ∧ awaiting.st = .awaitFirst) ∧
    (decoder.request = none ∧ decoder.dir = .dec ∧ decoder.st = .running) ∧
    (State.reset.request = none ∧ State.reset.st = .halted) := by decide

/-! Starts. -/

theorem test_witness_CompressStartLoads : State.reset.st = .halted ∧ encoder.st ≠ .halted := by decide
theorem test_witness_ExpandStartLoads :
    ({ State.reset with inbits := bitsOfNat 8 (tagOf .periodic).toNat ++ [true] } : State).inbits =
      bitsOfNat 8 (tagOf .periodic).toNat ++ [true] ∧ awaiting.st ≠ .halted := by decide
theorem test_witness_ExpandStartErrors_short : State.reset.st = .halted ∧
    ({ State.reset with inbits := List.replicate 7 true } : State).inbits.length < 8 := by decide
theorem test_witness_ExpandStartErrors_tag :
    ({ State.reset with inbits := List.replicate 8 false } : State).inbits = bitsOfNat 8 (0 : Byte).toNat ++ [] ∧
    ∀ m, (0 : Byte) ≠ tagOf m := ⟨by decide, fun m => by cases m <;> decide⟩
theorem test_witness_ReservedCommandIsRefused : (commanded 0b011).request = some (.start 0b011) := by decide
/-- Two halted instances that differ in what an earlier run left. -/
theorem test_witness_StartForgetsEarlierRun :
    State.reset.st = .halted ∧ ({ fullEncoder with st := .halted, input := [] } : State).st = .halted ∧
    State.reset.input = ({ fullEncoder with st := .halted, input := [] } : State).input ∧
    ({ State.reset with inbits := bitsOfNat 8 (tagOf .none).toNat } : State).inbits =
      bitsOfNat 8 (tagOf .none).toNat ++ [] := by decide

/-! Channels and tags. -/

theorem test_witness_BitWriteAppends : 1 ≤ 1 ∧ 1 ≤ 16 ∧ 16 ≤ 16 := by decide
theorem test_witness_BitReadTakes : ({ State.reset with inbits := List.replicate 16 true } : State).rp + 16 ≤
      ({ State.reset with inbits := List.replicate 16 true } : State).inbits.length ∧
    ({ State.reset with inbits := List.replicate 15 true } : State).inbits.length <
      ({ State.reset with inbits := List.replicate 15 true } : State).rp + 16 := by decide
theorem test_witness_CloseAndByteTransfers : encoder.input[2]? = some 0x41 ∧ 1 ≤ ([0x41] : Str).length := by decide
theorem test_witness_ReadBackOfWrite : (0xFFFF : Codeword).toNat < 2 ^ 16 ∧
    exec (.bitWrite 0xFFFF 16) State.reset = .next (bitWrite 0xFFFF 16 State.reset) ∧
    ({ decoder with inbits := List.replicate 16 true ++ [false] } : State).inbits =
      (bitWrite 0xFFFF 16 State.reset).outbits ++ [false] ∧
    ({ decoder with inbits := List.replicate 16 true ++ [false] } : State).rp = State.reset.outbits.length :=
  ⟨by decide, rfl, by decide, by decide⟩
theorem test_witness_TagSymbols : State.reset.st = .halted ∧ (∀ m, (0xFF : Byte) ≠ tagOf m) ∧ decoder.st ≠ .halted :=
  ⟨rfl, fun m => by cases m <;> decide, by decide⟩
theorem test_witness_TagReadSelectsTheMode :
    (({ State.reset with inbits := bitsOfNat 8 (tagOf .monitored).toNat } : State).inbits.drop 0 =
      bitsOfNat 8 (tagOf .monitored).toNat ++ []) ∧
    (({ State.reset with inbits := List.replicate 8 true } : State).inbits.drop 0 = bitsOfNat 8 (0xFF : Byte).toNat ++ []) ∧
    (({ State.reset with inbits := List.replicate 7 true } : State).inbits.drop 0).length < 8 := by decide

/-! Stores. -/

/-- A DICT that holds the 256 single bytes meets the conditions of the longest match. -/
theorem test_witness_LongestPrefixIsTheLongestKey :
    0 < (dictInit encoder).input.length ∧ (∀ b : Byte, (dictGet (dictInit encoder) [b]).isSome) ∧
    (∀ (k : Str) (b : Byte), k ≠ [] → (dictGet (dictInit encoder) (k ++ [b])).isSome →
      (dictGet (dictInit encoder) k).isSome) := by
  refine ⟨by decide, fun b => by simp [dictGet_dictInit_single], fun k b hk h => ?_⟩
  have := List.length_pos_iff.2 hk
  rw [dictGet_dictInit_other encoder (k ++ [b]) (by simp; omega)] at h
  cases h
theorem test_witness_DictGetAndInsert : dictGet encoder [0x41] = some 65 ∧ dictGet encoder [0x41, 0x42] = none ∧
    ({ encoder with cc := 511 } : State).cc < encoder.l := by decide
theorem test_witness_TabLookupAnswersTheValue : (255 : Codeword).toNat < decoderAB.cc ∧ (255 : Codeword).toNat < 256 ∧
    (257 : Codeword).toNat < decoderAB.cc ∧ tabGet decoderAB (257 : Codeword).toNat = some [0x41, 0x42] := by decide
theorem test_witness_TabAppendAssignsTheNextIndex : 2 ≤ ([0x41, 0x42] : Str).length ∧
    ({ decoder with cc := 511 } : State).cc < decoder.l := by decide
theorem test_witness_FullStoresTakeNoEntry : fullEncoder.l ≤ fullEncoder.cc ∧
    (dictGet { encoder with cc := 512 } [0x41] = some 65 ∧ encoder.l ≤ ({ encoder with cc := 512 } : State).cc) ∧
    2 ≤ ([0x41, 0x42] : Str).length := by decide

/-! Width, policy, tracker. -/

theorem test_witness_WidthInitAndGrow : ({ encoder with w := 15 } : State).w < 16 ∧ 16 ≤ fullEncoder.w := by decide
theorem test_witness_GrowthCheckGrowsOnce :
    (({ decoder with cc := 511 } : State).cc + lag .dec = decoder.l ∧ decoder.w < 16) ∧
    ¬ (decoder.cc + lag .dec = decoder.l ∧ decoder.w < 16) ∧ 0 < decoder.l ∧
    exec (.wcGrowthCheck .dec) decoder = .next decoder := ⟨by decide, by decide, by decide, rfl⟩
theorem test_witness_PolicyCheckFollowsTheMode : fullEncoder.mode = .none ∧
    ({ fullEncoder with mode := .periodic } : State).mode = .periodic ∧
    ({ fullEncoder with mode := .monitored } : State).mode = .monitored := by decide
theorem test_witness_PeriodicCheckResetsWhenFull : (fullEncoder.cc + lag .enc = fullEncoder.l ∧ fullEncoder.w = 16) ∧
    (({ fullEncoder with cc := 65535 } : State).cc + lag .dec = fullEncoder.l) ∧
    ¬ (({ fullEncoder with cc := 65535 } : State).cc + lag .enc = fullEncoder.l ∧ fullEncoder.w = 16) := by decide
/-- While monitoring: equality resets, one below does not; before: full, and one short of full. -/
theorem test_witness_MonitoredCheckCapturesThenResets : 11 * 1 * 10 ≤ 10 * 11 * 1 ∧ 10 * 109 * 1 < 11 * 1 * 100 ∧
    fullEncoder.mon = false ∧ (fullEncoder.cc + lag .enc = fullEncoder.l ∧ fullEncoder.w = 16) ∧
    ¬ (({ fullEncoder with cc := 65535 } : State).cc + lag .enc = fullEncoder.l ∧ fullEncoder.w = 16) := by decide
theorem test_witness_TrackerUpdateAndCapture : 1 ≤ 1 ∧ ({ encoder with mode := .monitored } : State).mode = .monitored ∧
    encoder.mode ≠ .monitored := by decide
theorem test_witness_DegradedIsTheRationalTest :
    0 < ({ fullEncoder with bu := 1, bc := 1 } : State).u ∧ 0 < ({ fullEncoder with bu := 1, bc := 1 } : State).c ∧
    0 < ({ fullEncoder with bu := 1, bc := 1 } : State).bu ∧ 0 < ({ fullEncoder with bu := 1, bc := 1 } : State).bc := by
  decide

/-! Encoder. -/

theorem test_witness_EncStepInOrder : encoderABA.dir = .enc ∧ encoderABA.st = .running ∧
    longestPrefix encoderABA.cur encoderABA = some [0x41, 0x42] ∧ dictGet encoderABA [0x41, 0x42] = some 257 := by decide
theorem test_witness_EncStepFrame : longestPrefix encoderABA.cur encoderABA = some [0x41, 0x42] ∧
    exec .encStep encoderABA = .next (after (exec .encStep encoderABA)) :=
  ⟨by decide, eq_next_of_goesOn (by decide)⟩
/-- The clause of modes other than NONE in which the policy resets: PERIODIC, the step that fills the table. -/
theorem test_witness_EncStepFrame_reset :
    (after (exec .encStep { encoder with mode := .periodic, w := 16, l := 65536, cc := 65535 })).w = 9 ∧
    goesOn (exec .encStep { encoder with mode := .periodic, w := 16, l := 65536, cc := 65535 }) = true := by decide
theorem test_witness_EncEofEndsTheStream : ({ encoder with cur := 3 } : State).dir = .enc ∧
    ({ encoder with cur := 3 } : State).st = .running ∧ ({ encoder with cur := 3 } : State).cur = encoder.input.length := by
  decide

/-! Decoder. -/

theorem test_witness_DecFirstTakesALiteral : awaiting.dir = .dec ∧ awaiting.st = .awaitFirst ∧ awaiting.cc = 257 ∧
    awaiting.l = 512 ∧ awaiting.mon = false ∧ 8 ≤ awaiting.w ∧
    ({ awaiting with inbits := bitsOfNat 9 255 } : State).inbits.drop awaiting.rp =
      bitsOfNat awaiting.w (255 : Byte).toNat ++ [] := by decide
theorem test_witness_CodewordClassesInRunning_lit : decoderBA.dir = .dec ∧ decoderBA.st = .running ∧
    decoderBA.prior = some [0x41, 0x42] ∧ codewordValue decoderBA 255 [255] ∧ (255 : Codeword).toNat < 256 :=
  ⟨rfl, rfl, rfl, .inl (by decide), by decide⟩
theorem test_witness_CodewordClassesInRunning_ref : codewordValue decoderBA 258 [0x42, 0x41] ∧
    257 ≤ (258 : Codeword).toNat ∧ (258 : Codeword).toNat < decoderBA.cc := ⟨.inr (.inl (by decide)), by decide, by decide⟩
theorem test_witness_CodewordClassesInRunning_kwkwk : codewordValue decoderBA 259 [0x41, 0x42, 0x41] ∧
    (259 : Codeword).toNat = decoderBA.cc :=
  ⟨.inr (.inr ⟨by decide, by decide, 0x41, [0x42], rfl, rfl⟩), by decide⟩
theorem test_witness_DecNextTakesAValue :
    codewordValue { decoderBA with inbits := bitsOfNat 9 259 } 259 [0x41, 0x42, 0x41] ∧
    (259 : Codeword).toNat < 2 ^ decoderBA.w ∧ 257 ≤ decoderBA.cc ∧
    ({ decoderBA with inbits := bitsOfNat 9 259 } : State).inbits.drop decoderBA.rp =
      bitsOfNat decoderBA.w (259 : Codeword).toNat ++ [] :=
  ⟨.inr (.inr ⟨by decide, by decide, 0x41, [0x42], rfl, rfl⟩), by decide, by decide, by decide⟩
theorem test_witness_OneAheadDefinesItsOwnEntry : decoderBA.dir = .dec ∧ decoderBA.st = .running ∧
    decoderBA.prior = some (0x41 :: [0x42]) ∧ 257 ≤ (259 : Codeword).toNat ∧ (259 : Codeword).toNat = decoderBA.cc ∧
    decoderBA.cc < decoderBA.l ∧ (after (exec (.cwKwkwk 259) decoderBA)).st = .running := by decide
theorem test_witness_DecValueFrame : decoderBA.st = .running ∧
    exec (.cwLit 0) decoderBA = .next (after (exec (.cwLit 0) decoderBA)) ∧
    exec (.cwRef 257) decoderBA = .next (after (exec (.cwRef 257) decoderBA)) ∧
    exec (.cwKwkwk 259) decoderBA = .next (after (exec (.cwKwkwk 259) decoderBA)) ∧
    exec .decNext decoderBA = .next (after (exec .decNext decoderBA)) :=
  ⟨rfl, eq_next_of_goesOn (by decide), eq_next_of_goesOn (by decide), eq_next_of_goesOn (by decide),
    eq_next_of_goesOn (by decide)⟩
theorem test_witness_DecValueFrame_reset :
    (after (exec (.cwLit 0) { decoder with mode := .periodic, w := 16, l := 65536, cc := 65534 })).st = .awaitFirst := by
  decide
theorem test_witness_DecValueFrame_next :
    (after (exec .decNext { decoderBA with inbits := bitsOfNat 9 259 })).st = .running ∧
    (after (exec .decNext { decoderBA with inbits := bitsOfNat 9 259 })).rp = 9 ∧
    (after (exec .decNext { decoderBA with inbits := bitsOfNat 9 256 })).st = .halted := by decide
theorem test_witness_EofCodewordHalts : (awaiting.dir = .dec ∧ awaiting.st ≠ .halted ∧ decoder.st ≠ .halted) ∧
    256 < 2 ^ awaiting.w ∧ ({ awaiting with inbits := bitsOfNat 9 256 } : State).inbits.drop awaiting.rp =
      bitsOfNat awaiting.w 256 ++ [] := by decide
theorem test_witness_OutOfRangeCodewordRaises : (awaiting.dir = .dec ∧ 257 ≤ (257 : Codeword).toNat ∧
      awaiting.st = .awaitFirst) ∧ (decoder.st = .running ∧ decoder.cc < (258 : Codeword).toNat) ∧
    (258 : Codeword).toNat < 2 ^ decoder.w ∧ ({ decoder with inbits := bitsOfNat 9 258 } : State).inbits.drop decoder.rp =
      bitsOfNat decoder.w (258 : Codeword).toNat ++ [] := by decide
theorem test_witness_ExhaustedCodewordRaises : awaiting.dir = .dec ∧ awaiting.st = .awaitFirst ∧ decoder.st = .running ∧
    (({ decoder with inbits := List.replicate 8 true } : State).inbits.drop decoder.rp).length < decoder.w := by decide

/-! The machine as a whole: an Encoder and a Decoder that have just been started, and a step of each. -/

/-- An Encoder started in mode NONE on the single byte A. -/
def startedEncoder : State := encLoad .none { State.reset with input := [0x41] }

/-- A Decoder that has read the tag of `tag:n 'A'@9`. -/
def startedDecoder : State :=
  decLoad { State.reset with dir := .dec, rp := 8, inbits := bitsOfNat 8 0x6E ++ bitsOfNat 9 0x41 }

theorem startedEncoder_inv : startedEncoder.Inv := encLoad_inv _ _ ⟨List.Pairwise.nil, List.Pairwise.nil⟩

theorem startedDecoder_inv : startedDecoder.Inv :=
  decLoad_inv _ rfl rfl rfl (by decide) ⟨List.Pairwise.nil, List.Pairwise.nil⟩

theorem test_witness_StepKeepsTheInvariants : startedEncoder.Inv ∧ step startedEncoder = .next (after (step startedEncoder)) ∧
    startedDecoder.Inv ∧ step startedDecoder = .next (after (step startedDecoder)) :=
  ⟨startedEncoder_inv, eq_next_of_goesOn (by decide), startedDecoder_inv, eq_next_of_goesOn (by decide)⟩
theorem test_witness_RunInProgressAlwaysSteps : startedEncoder.Inv ∧ startedEncoder.request = none ∧
    startedEncoder.st ≠ .halted ∧ startedDecoder.Inv ∧ startedDecoder.request = none ∧ startedDecoder.st ≠ .halted :=
  ⟨startedEncoder_inv, rfl, by decide, startedDecoder_inv, rfl, by decide⟩
/-- Also for WrittenOutputStays; with the next line for EncoderNeverRaises. -/
theorem test_witness_ModeIsConstantDuringARun : encoder.st ≠ .halted ∧ encoder.dir = .enc ∧
    step encoder = .next (after (step encoder)) ∧ decoder.st ≠ .halted ∧ step decoder = .next (after (step decoder)) :=
  ⟨by decide, rfl, eq_next_of_goesOn (by decide), by decide, eq_next_of_goesOn (by decide)⟩
theorem test_witness_ModeIsConstantDuringARun_start : State.reset.st = .halted ∧
    ({ State.reset with inbits := bitsOfNat 8 (tagOf .monitored).toNat } : State).inbits =
      bitsOfNat 8 (tagOf .monitored).toNat ++ [] := by decide
theorem test_witness_WrittenOutputStays : encoder.st ≠ .halted ∧ step encoder = .next (after (step encoder)) :=
  ⟨by decide, eq_next_of_goesOn (by decide)⟩
theorem test_witness_EncoderNeverRaises : encoder.dir = .enc ∧ encoder.st ≠ .halted ∧
    step encoder = .next (after (step encoder)) := ⟨rfl, by decide, eq_next_of_goesOn (by decide)⟩
/-- A step that records TruncatedStream, and one that records CodewordOutOfRange. -/
theorem test_witness_ErrorsArePrecise : decoder.st ≠ .halted ∧ decoder.request = none ∧ decoder.err = .none ∧
    step decoder = .next (after (step decoder)) ∧ (after (step decoder)).err = .truncatedStream ∧
    step { decoder with inbits := bitsOfNat 9 300 } = .next (after (step { decoder with inbits := bitsOfNat 9 300 })) ∧
    (after (step { decoder with inbits := bitsOfNat 9 300 })).err = .codewordOutOfRange :=
  ⟨by decide, rfl, rfl, eq_next_of_goesOn (by decide), by decide, eq_next_of_goesOn (by decide), by decide⟩
/-- A step that grows, and one that resets. -/
theorem test_witness_WidthNeverDecreases : ({ encoder with cc := 511 } : State).st ≠ .halted ∧
    encoder.request = none ∧ step { encoder with cc := 511 } = .next (after (step { encoder with cc := 511 })) ∧
    (after (step { encoder with mode := .periodic, w := 16, l := 65536, cc := 65535 })).w = 9 :=
  ⟨by decide, rfl, eq_next_of_goesOn (by decide), by decide⟩
theorem test_witness_StateTransitions : (encoder.st ≠ .halted ∧ encoder.request = none ∧ encoder.dir = .enc ∧
      goesOn (step encoder) = true) ∧ (awaiting.dir = .dec ∧ awaiting.st = .awaitFirst ∧ goesOn (step awaiting) = true) ∧
    (decoder.dir = .dec ∧ decoder.st = .running ∧ goesOn (step decoder) = true) := by decide
theorem test_witness_EveryStepMakesProgress : startedEncoder.Inv ∧ startedEncoder.request = none ∧
    startedEncoder.dir = .enc ∧ step startedEncoder = .next (after (step startedEncoder)) ∧
    startedDecoder.Inv ∧ startedDecoder.dir = .dec ∧ step startedDecoder = .next (after (step startedDecoder)) :=
  ⟨startedEncoder_inv, rfl, rfl, eq_next_of_goesOn (by decide), startedDecoder_inv, rfl, eq_next_of_goesOn (by decide)⟩

/-! Whole runs of at most three steps. -/

/-- A compress run of the single byte A in mode PERIODIC, about to start. -/
def aboutToCompress : State := { commanded (0#1 ++ Mode.periodic.code) with input := [0x41] }

/-- Its end. -/
def compressed : State := after (Host.Core.run core 3 aboutToCompress)

/-- An expand run of its stream, about to start. -/
def aboutToExpand : State := { commanded (1#1 ++ 0#2) with inbits := compressed.outbits }

/-- S1: the empty input, both ways. -/
theorem test_emptyRun : packBits (after (Host.Core.run core 2 (commanded 0b000))).outbits = [0x6E, 0x80, 0x00] ∧
    (after (Host.Core.run core 2 { commanded 0b100 with inbits := unpackBytes [0x6E, 0x80, 0x00] })).st = .halted ∧
    (after (Host.Core.run core 2 { commanded 0b100 with inbits := unpackBytes [0x6E, 0x80, 0x00] })).err = .none ∧
    (after (Host.Core.run core 2 { commanded 0b100 with inbits := unpackBytes [0x6E, 0x80, 0x00] })).outb = [] := by
  decide
theorem test_witness_EmptyAndSingleByteRuns : aboutToCompress.st = .halted ∧
    aboutToCompress.request = some (.start (0#1 ++ Mode.periodic.code)) ∧ aboutToCompress.input = [0x41] ∧
    (commanded 0b000).input = [] ∧ aboutToExpand.st = .halted ∧ aboutToExpand.request = some (.start (1#1 ++ 0#2)) :=
  ⟨rfl, rfl, rfl, rfl, rfl, rfl⟩
theorem test_witness_RoundTrip : aboutToCompress.st = .halted ∧
    aboutToCompress.request = some (.start (0#1 ++ Mode.periodic.code)) ∧ 1 ≤ 3 ∧
    Host.Core.run core 3 aboutToCompress = .next compressed ∧ compressed.st = .halted ∧ ¬ compressed.endDesync ∧
    aboutToExpand.st = .halted ∧ aboutToExpand.request = some (.start (1#1 ++ 0#2)) ∧
    aboutToExpand.inbits = compressed.outbits :=
  ⟨rfl, rfl, by decide, eq_next_of_goesOn (by decide), by decide, by unfold State.endDesync; decide, rfl, rfl, rfl⟩
/-- R134, by that run: `tag b@9 EOF@9 pad:6`. -/
theorem test_singleByteStream : packBits compressed.outbits = [0x72, 0x20, 0xC0, 0x00] := by decide

end Sys2Proof.Tests
end

section
/-! PROOFS. ENC.step part by part (spec/43_encoder.md): each update as one record with the conditions under which its
fields change, and their composition in the order of R128. -/

namespace Sys2Proof.Machine

/-- The tracker's update with its condition on MODE at each counter (R114). -/
theorem rtUpdate_eq_ite (t : Nat) (s : State) :
    rtUpdate t s = { s with
      u := if s.mode = .monitored then s.u + 8 * t else s.u
      c := if s.mode = .monitored then s.c + s.w else s.c } := by
  rcases rtUpdate_cases t s with ⟨hm, e⟩ | ⟨hm, e⟩ <;> simp [e, hm]

/-- The Encoder's growth check with its trigger at W and L (R98, R100, R101). -/
theorem growthCheck_enc_eq_ite (s : State) :
    growthCheck .enc s = { s with
      w := if s.cc = s.l ∧ s.w < 16 then s.w + 1 else s.w
      l := if s.cc = s.l ∧ s.w < 16 then s.l * 2 else s.l } := by
  rcases growthCheck_cases .enc s with ⟨hf, hw, e⟩ | ⟨hn, e⟩
  · have hcc : s.cc = s.l := by simpa [isFull_iff] using hf
    simp [e, hcc, hw]
  · have hn : ¬ (s.cc = s.l ∧ s.w < 16) := by simpa [isFull_iff] using hn
    simp only [e, if_neg hn]

/-- The Encoder's insert with its conditions at DICT and CC: a byte follows the match, and CC < L (R97, R128). -/
theorem encInsert_eq_ite (found : Str) (s : State) :
    encInsert found s = { s with
      dict := match s.input[s.cur + found.length]? with
        | some b => if s.cc < s.l then assocSet strLt s.dict (found ++ [b]) (BitVec.ofNat 16 s.cc) else s.dict
        | none => s.dict
      cc := if s.cur + found.length < s.input.length ∧ s.cc < s.l then s.cc + 1 else s.cc } := by
  rcases encInsert_cases found s with ⟨b, hb, hcc, e⟩ | ⟨hend | hfull, e⟩
  · have hlt : s.cur + found.length < s.input.length := (List.getElem?_eq_some_iff.mp hb).1
    simp only [e, hb, if_pos hcc, if_pos (And.intro hlt hcc), dictInsert]
  · have hno : ¬ (s.cur + found.length < s.input.length ∧ s.cc < s.l) := by omega
    simp only [e, List.getElem?_eq_none hend, if_neg hno]
  · have hcc : ¬ s.cc < s.l := Nat.not_lt.mpr hfull
    cases hb : s.input[s.cur + found.length]? <;> simp [e, hcc]

/-- The codeword written, the tracker counted, the insert and the growth check, in that order, leave the state that
`encBeforePolicy` gives field by field: none of them reads what an earlier one wrote but CC, which the growth check
takes after the insert (R128). -/
theorem growthCheck_encInsert_eq_encBeforePolicy (found : Str) (code : Codeword) (s : State) :
    growthCheck .enc (encInsert found (rtUpdate found.length (bitWrite code s.w s))) =
      encBeforePolicy found code s := by
  rw [growthCheck_enc_eq_ite, encInsert_eq_ite, rtUpdate_eq_ite]
  rfl

@[simp] theorem encBeforePolicy_cur (found : Str) (code : Codeword) (s : State) :
    (encBeforePolicy found code s).cur = s.cur := rfl

/-- Parts 2 to 5 of ENC.step: the state before the policy check, the policy check, then CUR past the match (R128). -/
theorem encEmit_eq (found : Str) (code : Codeword) (s : State) :
    encEmit found code s =
      { rpCheck .enc (encBeforePolicy found code s) with cur := s.cur + found.length } := by
  simp [encEmit, postStep, growthCheck_encInsert_eq_encBeforePolicy]

/-- A running Encoder with a match and its codeword emits it (R127, R128): the converse of `execEncStep_next`. -/
theorem execEncStep_of_match {s : State} {found : Str} {code : Codeword} (hd : s.dir = .enc) (hs : s.st = .running)
    (hf : longestPrefix s.cur s = some found) (hc : dictGet s found = some code) :
    execEncStep s = .next (encEmit found code s) := by
  simp [execEncStep, hd, hs, hf, hc]

/-- Settles O38: the step emits its match (`execEncStep_of_match`), and the emit is the composition of R128. -/
theorem encStepInOrder : Obligations.EncStepInOrder := by
  intro s found code hd hs hf hc
  rw [← encEmit_eq]
  exact execEncStep_of_match hd hs hf hc

end Sys2Proof.Machine
end

section
/-! PROOFS. Where MODE comes from and that a run keeps it (spec/45_mode_selection_and_control.md R161): the two starts as
next states, and MODE in each update that a step of a run makes. -/

namespace Sys2Proof.Machine

/-! The starts. -/

theorem execEncStart_of_halted {s : State} (m : Mode) (hs : s.st = .halted) :
    execEncStart m s = .next (encLoad m s) := by
  simp [execEncStart, hs]

theorem execDecStart_of_halted {s : State} (hs : s.st = .halted) : execDecStart s = .next (decBegin s) := by
  simp [execDecStart, hs]

@[simp] theorem encLoad_mode (m : Mode) (s : State) : (encLoad m s).mode = m := rfl

/-- ENC.start empties OUTBITS before it writes the tag (R126, R162). -/
theorem encLoad_outbits (m : Mode) (s : State) : (encLoad m s).outbits = bitsOfNat 8 (tagOf m).toNat := by
  cases m <;> rfl

@[simp] theorem decLoad_mode (s : State) : (decLoad s).mode = s.mode := rfl

/-- Where the tag of `m` stands next in the stream, TAG.read takes its 8 bits and selects `m` (R163). -/
theorem readTag_of_bits {s : State} {m : Mode} {rest : Bits}
    (h : s.inbits.drop s.rp = bitsOfNat 8 (tagOf m).toNat ++ rest) :
    readTag s = (true, { advance 8 s with mode := m }) := by
  have hread : bitRead 8 s = some (BitVec.ofNat 16 (tagOf m).toNat, advance 8 s) := bitRead_of_bits h (tagOf m).isLt
  simp [readTag, hread, takeTag, modeOfTag_tagOf]

/-- DEC.start reads from the stream's first bit, whatever RP was (R141). -/
theorem decBegin_mode_of_tag {s : State} {m : Mode} {rest : Bits}
    (h : s.inbits = bitsOfNat 8 (tagOf m).toNat ++ rest) : (decBegin s).mode = m := by
  have hread : readTag (decPrepare s) = (true, { advance 8 (decPrepare s) with mode := m }) := readTag_of_bits h
  simp [decBegin, hread]

/-! MODE in the updates of one symbol. -/

@[simp] theorem encEmit_mode (found : Str) (code : Codeword) (s : State) :
    (encEmit found code s).mode = s.mode := by
  simp [encEmit]

@[simp] theorem decFirstValue_mode (value : Str) (s : State) : (decFirstValue value s).mode = s.mode := by
  simp [decFirstValue]

@[simp] theorem decNextValue_mode (prior : Str) (b : Byte) (more : Str) (s : State) :
    (decNextValue prior b more s).mode = s.mode := by
  simp [decNextValue]

/-- A step of a run keeps MODE: no update that `run_cases` lists writes it (R161). -/
theorem step_mode_of_run {s t : State} (hs : s.st ≠ .halted) (h : step s = .next t) : t.mode = s.mode := by
  rcases run_cases hs h with ⟨-, rfl⟩ | ⟨-, -, -, -, found, code, -, -, rfl⟩ | ⟨-, -, -, -, rfl⟩ | ⟨-, -, -, rfl⟩ |
    ⟨-, -, c, -, heof | hoor | hfirst | hnext⟩
  · rfl
  · exact encEmit_mode found code s
  · simp
  · exact raise_mode s _ _
  · obtain ⟨-, rfl⟩ := heof; simp
  · obtain ⟨-, -, rfl⟩ := hoor; simp
  · obtain ⟨-, -, rfl⟩ := hfirst; simp
  · obtain ⟨-, p, b, more, -, rfl, -⟩ := hnext; simp

/-- Settles O52: each start's next state has the MODE it was given or has read, and `step_mode_of_run` is the rest. -/
theorem modeIsConstantDuringARun : Obligations.ModeIsConstantDuringARun := by
  refine ⟨fun s m hs => ⟨?_, fun rest hbits => ?_⟩, fun s t => step_mode_of_run⟩
  · exact ⟨encLoad m s, execEncStart_of_halted m hs, encLoad_mode m s, encLoad_outbits m s⟩
  · exact ⟨decBegin s, execDecStart_of_halted hs, decBegin_mode_of_tag hbits⟩

end Sys2Proof.Machine
end

section
/-! PROOFS. The decoder and the encoder are inverse (spec/30_encoding.md): for each format, which instruction a symbol
decodes to and which symbol it came from; then the order of bits in a byte stream (spec/20_memory.md R45). -/

namespace Sys2Proof

/-! Tags. -/

/-- A tag byte selects no variant exactly when it is none of the three tags (R62, R69). -/
theorem modeOfTag_eq_none_iff (tag : Byte) : modeOfTag tag = none ↔ ∀ m, tag ≠ tagOf m := by
  constructor
  · rintro h m rfl
    rw [Machine.modeOfTag_tagOf] at h
    cases h
  · intro h
    cases hm : modeOfTag tag with
    | none => rfl
    | some m => exact absurd (Machine.modeOfTag_eq_some hm) (h m)

/-- The operand condition of TAG.INVALID is that the byte selects no variant (R69). -/
theorem wellFormed_tagInvalid_iff (tag : Byte) : (Instr.tagInvalid tag).WellFormed = true ↔ modeOfTag tag = none := by
  rw [modeOfTag_eq_none_iff]
  simp only [Instr.WellFormed, Bool.and_eq_true, bne_iff_ne]
  constructor
  · rintro ⟨⟨hn, hp⟩, hm⟩ m
    cases m
    · exact hn
    · exact hp
    · exact hm
  · intro h
    exact ⟨⟨h .none, h .periodic⟩, h .monitored⟩

/-- A well-formed instruction with a tag symbol is what its tag decodes to. -/
theorem decodeTag_of_symbol {i : Instr} {tag : Byte} (hw : i.WellFormed = true) (h : i.symbol = some (.tag tag)) :
    decodeTag tag = i := by
  cases i <;> cases h
  case tagNone => rfl
  case tagPeriodic => rfl
  case tagMonitored => rfl
  case tagInvalid => simp [decodeTag, (wellFormed_tagInvalid_iff tag).1 hw]

/-- Every tag byte decodes to a well-formed instruction with that symbol. -/
theorem symbol_decodeTag (tag : Byte) :
    (decodeTag tag).symbol = some (.tag tag) ∧ (decodeTag tag).WellFormed = true := by
  unfold decodeTag
  cases hm : modeOfTag tag with
  | none => exact ⟨rfl, (wellFormed_tagInvalid_iff tag).2 hm⟩
  | some m =>
    obtain rfl := Machine.modeOfTag_eq_some hm
    cases m <;> exact ⟨rfl, rfl⟩

/-! Commands. -/

/-- An instruction with a command symbol is what its CMD word decodes to. -/
theorem decodeCmd_of_symbol {i : Instr} {cmd : BitVec 3} (h : i.symbol = some (.command cmd)) : decodeCmd cmd = i := by
  cases i <;> cases h
  case startCompressNone => rfl
  case startCompressPeriodic => rfl
  case startCompressMonitored => rfl
  case startReserved => rfl
  case startExpand m => revert m; decide

/-- Every CMD word decodes to a well-formed instruction with that symbol. -/
theorem symbol_decodeCmd (cmd : BitVec 3) :
    (decodeCmd cmd).symbol = some (.command cmd) ∧ (decodeCmd cmd).WellFormed = true := by
  revert cmd; decide

/-! Codewords. -/

theorem setWidth_setWidth_byte (b : Byte) : (b.setWidth 16).setWidth 8 = b := by
  simp

theorem toNat_setWidth_literal {c : Codeword} (h : c.toNat < 256) : (c.setWidth 8).toNat = c.toNat := by
  rw [BitVec.toNat_setWidth]
  exact Nat.mod_eq_of_lt h

theorem toNat_setWidth_byte (b : Byte) : (b.setWidth 16 : Codeword).toNat = b.toNat := by
  rw [BitVec.toNat_setWidth]
  exact Nat.mod_eq_of_lt (lt_trans b.isLt (by decide))

theorem setWidth_setWidth_literal {c : Codeword} (h : c.toNat < 256) : (c.setWidth 8).setWidth 16 = c :=
  BitVec.eq_of_toNat_eq ((toNat_setWidth_byte _).trans (toNat_setWidth_literal h))

/-- A codeword below 256 is a literal in either state in which one is read. -/
theorem classify_literal {st : St} (hs : st ≠ .halted) (cc : Nat) {c : Codeword} (h : c.toNat < 256) :
    classify st cc c = some (.cwLit (c.setWidth 8)) := by
  cases st with
  | halted => exact absurd rfl hs
  | awaitFirst => simp [classify, h, Nat.ne_of_lt h]
  | running => simp [classify, h, Nat.ne_of_lt h]

theorem classify_eof {st : St} (hs : st ≠ .halted) (cc : Nat) {c : Codeword} (h : c.toNat = 256) :
    classify st cc c = some .cwEof := by
  cases st with
  | halted => exact absurd rfl hs
  | awaitFirst => simp [classify, h]
  | running => simp [classify, h]

theorem classify_ref {cc : Nat} {c : Codeword} (h : 257 ≤ c.toNat) (hc : c.toNat < cc) :
    classify .running cc c = some (.cwRef c) := by
  simp [classify, show ¬ c.toNat = 256 by omega, show ¬ c.toNat < 256 by omega, hc]

theorem classify_kwkwk {cc : Nat} {c : Codeword} (h : 257 ≤ c.toNat) (hc : c.toNat = cc) :
    classify .running cc c = some (.cwKwkwk c) := by
  subst hc
  simp [classify, show ¬ c.toNat = 256 by omega, show ¬ c.toNat < 256 by omega]

theorem classify_oor {st : St} {cc : Nat} {c : Codeword} (h : 257 ≤ c.toNat)
    (hc : st = .awaitFirst ∨ (st = .running ∧ cc < c.toNat)) : classify st cc c = some (.cwOor c) := by
  have h1 : ¬ c.toNat = 256 := by omega
  have h2 : ¬ c.toNat < 256 := by omega
  rcases hc with rfl | ⟨rfl, hc⟩
  · simp [classify, h1, h2]
  · simp [classify, h1, h2, show ¬ c.toNat < cc by omega, show ¬ c.toNat = cc by omega]

/-- A well-formed instruction with a codeword symbol is, in a state of its class, the class of its codeword (R65). -/
theorem classify_of_symbol {i : Instr} {st : St} {cc : Nat} {c : Codeword} (hw : i.WellFormed = true)
    (hcl : i.inClass st cc = true) (h : i.symbol = some (.codeword c)) : classify st cc c = some i := by
  cases i <;> cases h
  case cwLit b =>
    have hs : st ≠ .halted := by simpa [Instr.inClass] using hcl
    rw [classify_literal hs cc (by rw [toNat_setWidth_byte]; exact b.isLt), setWidth_setWidth_byte]
  case cwEof => exact classify_eof (by simpa [Instr.inClass] using hcl) cc rfl
  case cwRef =>
    obtain ⟨rfl, hc⟩ : st = .running ∧ c.toNat < cc := by simpa [Instr.inClass] using hcl
    exact classify_ref (by simpa [Instr.WellFormed] using hw) hc
  case cwKwkwk =>
    obtain ⟨rfl, hc⟩ : st = .running ∧ c.toNat = cc := by simpa [Instr.inClass] using hcl
    exact classify_kwkwk (by simpa [Instr.WellFormed] using hw) hc
  case cwOor => exact classify_oor (by simpa [Instr.WellFormed] using hw) (by simpa [Instr.inClass] using hcl)

/-- The class of a codeword is a well-formed instruction with that symbol, in a state of its class (R65). -/
theorem symbol_of_classify {i : Instr} {st : St} {cc : Nat} {c : Codeword} (h : classify st cc c = some i) :
    i.symbol = some (.codeword c) ∧ i.WellFormed = true ∧ i.inClass st cc = true := by
  have literal (hc : c.toNat < 256) : (Instr.cwLit (c.setWidth 8)).symbol = some (.codeword c) := by
    simp only [Instr.symbol, setWidth_setWidth_literal hc]
  have eof (hc : c.toNat = 256) : Instr.cwEof.symbol = some (.codeword c) := by
    obtain rfl : c = 256 := BitVec.eq_of_toNat_eq hc
    rfl
  cases st with
  | halted => cases h
  | awaitFirst =>
    rcases Machine.classify_awaitFirst cc c with ⟨hc, e⟩ | ⟨hc, e⟩ | ⟨hc, e⟩ <;> rw [e] at h <;> cases h
    · exact ⟨eof hc, rfl, rfl⟩
    · exact ⟨literal hc, rfl, rfl⟩
    · exact ⟨rfl, by simpa [Instr.WellFormed] using hc, rfl⟩
  | running =>
    rcases Machine.classify_running cc c with ⟨hc, e⟩ | ⟨hc, e⟩ | ⟨hc, hlt, e⟩ | ⟨hc, heq, e⟩ | ⟨hc, hgt, e⟩ <;>
      rw [e] at h <;> cases h
    · exact ⟨eof hc, rfl, rfl⟩
    · exact ⟨literal hc, rfl, rfl⟩
    · exact ⟨rfl, by simpa [Instr.WellFormed] using hc, by simpa [Instr.inClass] using hlt⟩
    · exact ⟨rfl, by simpa [Instr.WellFormed] using hc, by simpa [Instr.inClass] using heq⟩
    · exact ⟨rfl, by simpa [Instr.WellFormed] using hc, by simpa [Instr.inClass] using hgt⟩

/-! The whole decoder on a written symbol. -/

theorem decodeSymbol_tag_append (tag : Byte) (rest : Bits) :
    decodeSymbol .tag (bitsOfNat 8 tag.toNat ++ rest) = .ok (decodeTag tag, rest) := by
  have hlt : tag.toNat % 256 = tag.toNat := Nat.mod_eq_of_lt tag.isLt
  simp [decodeSymbol, readBits_append, hlt]

theorem decodeSymbol_command_append (cmd : BitVec 3) (rest : Bits) :
    decodeSymbol .command (bitsOfNat 3 cmd.toNat ++ rest) = .ok (decodeCmd cmd, rest) := by
  have hlt : cmd.toNat % 8 = cmd.toNat := Nat.mod_eq_of_lt cmd.isLt
  simp [decodeSymbol, readBits_append, hlt]

theorem decodeSymbol_codeword_append {i : Instr} {w : Nat} {st : St} {cc : Nat} {c : Codeword} (hw : c.toNat < 2 ^ w)
    (hc : classify st cc c = some i) (rest : Bits) :
    decodeSymbol (.codeword w st cc) (bitsOfNat w c.toNat ++ rest) = .ok (i, rest) := by
  simp [decodeSymbol, readBits_append, Nat.mod_eq_of_lt hw, hc]

/-! The bits of each format. -/

theorem encode_of_tag {i : Instr} {tag : Byte} (h : i.symbol = some (.tag tag)) (w : Nat) :
    encode w i = some (bitsOfNat 8 tag.toNat) := by
  simp [encode, h]

theorem encode_of_codeword {i : Instr} {c : Codeword} (h : i.symbol = some (.codeword c)) (w : Nat) :
    encode w i = some (bitsOfNat w c.toNat) := by
  simp [encode, h]

theorem encode_of_command {i : Instr} {cmd : BitVec 3} (h : i.symbol = some (.command cmd)) (w : Nat) :
    encode w i = some (bitsOfNat 3 cmd.toNat) := by
  simp [encode, h]

/-- Settles O1, by the symbol's format: reading gives back the symbol that was written, and the instruction is what
that symbol decodes to. -/
theorem decodeOfEncode : Obligations.DecodeOfEncode := by
  intro i w st cc a bits rest hw hcl hfit ha henc
  unfold awaitedFor at ha
  cases hs : i.symbol with
  | none => rw [hs] at ha; cases ha
  | some symbol =>
    cases symbol with
    | tag tag =>
      rw [hs] at ha; cases ha
      rw [encode_of_tag hs] at henc; cases henc
      rw [decodeSymbol_tag_append, decodeTag_of_symbol hw hs]
    | codeword c =>
      rw [hs] at ha; cases ha
      rw [encode_of_codeword hs] at henc; cases henc
      have hc : c.toNat < 2 ^ w := by simpa [Instr.fits, hs] using hfit
      exact decodeSymbol_codeword_append hc (classify_of_symbol hw hcl hs) rest
    | command cmd =>
      rw [hs] at ha; cases ha
      rw [encode_of_command hs] at henc; cases henc
      rw [decodeSymbol_command_append, decodeCmd_of_symbol hs]

/-- Only a codeword's class puts a condition on state and count (R65). -/
theorem inClass_of_not_codeword {i : Instr} (h : ∀ c, i.symbol ≠ some (.codeword c)) (st : St) (cc : Nat) :
    i.inClass st cc = true := by
  cases i
  case cwLit => exact absurd rfl (h _)
  case cwEof => exact absurd rfl (h _)
  case cwRef => exact absurd rfl (h _)
  case cwKwkwk => exact absurd rfl (h _)
  case cwOor => exact absurd rfl (h _)
  all_goals rfl

/-- A read of `n` bits splits off the bits of a word of any size that holds them. -/
theorem readBits_some_ofNat {n m v : Nat} {bits rest : Bits} (h : readBits n bits = some (v, rest)) (hm : n ≤ m) :
    bits = bitsOfNat n (BitVec.ofNat m v).toNat ++ rest := by
  obtain ⟨hbits, hv⟩ := readBits_some h
  have hvm : v < 2 ^ m := lt_of_lt_of_le hv (Nat.pow_le_pow_right (by decide) hm)
  rwa [BitVec.toNat_ofNat, Nat.mod_eq_of_lt hvm]

/-- Settles O2, by what is awaited: a read that succeeds splits the bits, and what its value decodes to has that
symbol. -/
theorem encodeOfDecode : Obligations.EncodeOfDecode := by
  intro a w st cc bits rest i hw ha h
  rcases ha with rfl | rfl | rfl <;> simp only [decodeSymbol] at h
  case inl =>
    split at h <;> cases h
    rename_i v hr
    obtain ⟨hs, hwf⟩ := symbol_decodeTag (BitVec.ofNat 8 v)
    exact ⟨hwf, inClass_of_not_codeword (by simp [hs]) st cc, by simp [awaitedFor, hs], _, encode_of_tag hs w,
      readBits_some_ofNat hr le_rfl⟩
  case inr.inl =>
    split at h <;> cases h
    rename_i v hr
    obtain ⟨hs, hwf⟩ := symbol_decodeCmd (BitVec.ofNat 3 v)
    exact ⟨hwf, inClass_of_not_codeword (by simp [hs]) st cc, by simp [awaitedFor, hs], _, encode_of_command hs w,
      readBits_some_ofNat hr le_rfl⟩
  case inr.inr =>
    split at h
    case h_2 => cases h
    case h_1 v _ hr =>
    split at h <;> cases h
    rename_i hc
    obtain ⟨hs, hwf, hcl⟩ := symbol_of_classify hc
    exact ⟨hwf, hcl, by simp [awaitedFor, hs], _, encode_of_codeword hs w, readBits_some_ofNat hr hw⟩

/-- Settles O3: fourteen closed words, each read bit by bit. -/
theorem decodeSampleWords : Obligations.DecodeSampleWords :=
  ⟨rfl, rfl, rfl, rfl, rfl, rfl, rfl, rfl, rfl, rfl, rfl, rfl, rfl, rfl⟩

/-! The condition of each class (R65), from left to right by the symbol and the class of what is answered. -/

theorem classify_eq_eof_iff {st : St} (hs : st ≠ .halted) (cc : Nat) (c : Codeword) :
    classify st cc c = some .cwEof ↔ c.toNat = 256 := by
  refine ⟨fun h => ?_, classify_eof hs cc⟩
  obtain ⟨hsym, -, -⟩ := symbol_of_classify h
  cases hsym
  rfl

theorem classify_eq_literal_iff {st : St} (hs : st ≠ .halted) (cc : Nat) (c : Codeword) :
    classify st cc c = some (.cwLit (c.setWidth 8)) ↔ c.toNat < 256 := by
  refine ⟨fun h => ?_, classify_literal hs cc⟩
  obtain ⟨hsym, -, -⟩ := symbol_of_classify h
  have hc : (c.setWidth 8).setWidth 16 = c := by simpa [Instr.symbol] using hsym
  rw [← hc, toNat_setWidth_byte]
  exact (c.setWidth 8).isLt

theorem classify_eq_ref_iff (st : St) (cc : Nat) (c : Codeword) :
    classify st cc c = some (.cwRef c) ↔ st = .running ∧ 257 ≤ c.toNat ∧ c.toNat < cc := by
  refine ⟨fun h => ?_, fun ⟨hs, h, hc⟩ => hs ▸ classify_ref h hc⟩
  obtain ⟨-, hwf, hcl⟩ := symbol_of_classify h
  simp only [Instr.WellFormed, Instr.inClass, Bool.and_eq_true, beq_iff_eq, decide_eq_true_eq] at hwf hcl
  exact ⟨hcl.1, hwf, hcl.2⟩

theorem classify_eq_kwkwk_iff (st : St) (cc : Nat) (c : Codeword) :
    classify st cc c = some (.cwKwkwk c) ↔ st = .running ∧ 257 ≤ c.toNat ∧ c.toNat = cc := by
  refine ⟨fun h => ?_, fun ⟨hs, h, hc⟩ => hs ▸ classify_kwkwk h hc⟩
  obtain ⟨-, hwf, hcl⟩ := symbol_of_classify h
  simp only [Instr.WellFormed, Instr.inClass, Bool.and_eq_true, beq_iff_eq, decide_eq_true_eq] at hwf hcl
  exact ⟨hcl.1, hwf, hcl.2⟩

theorem classify_eq_oor_iff (st : St) (cc : Nat) (c : Codeword) :
    classify st cc c = some (.cwOor c) ↔ 257 ≤ c.toNat ∧ (st = .awaitFirst ∨ (st = .running ∧ cc < c.toNat)) := by
  refine ⟨fun h => ?_, fun ⟨h, hc⟩ => classify_oor h hc⟩
  obtain ⟨-, hwf, hcl⟩ := symbol_of_classify h
  simp only [Instr.WellFormed, Instr.inClass, Bool.or_eq_true, Bool.and_eq_true, beq_iff_eq, decide_eq_true_eq]
    at hwf hcl
  exact ⟨hwf, hcl⟩

/-- Settles O4, class by class; with CC = 65536 no 16-bit codeword reaches the count. -/
theorem codewordClassConditions : Obligations.CodewordClassConditions := by
  intro cc c hcc
  have h16 : c.toNat < 65536 := c.isLt
  refine ⟨classify_eq_eof_iff (by decide) cc c, classify_eq_literal_iff (by decide) cc c, ?_,
    classify_eq_eof_iff (by decide) cc c, classify_eq_literal_iff (by decide) cc c, ?_, ?_, ?_, fun hfull => ⟨?_, ?_⟩⟩
  · simp [classify_eq_oor_iff]
  · simp [classify_eq_ref_iff]
  · simp [classify_eq_kwkwk_iff]; omega
  · simp [classify_eq_oor_iff]; omega
  · simp [classify_eq_kwkwk_iff]; omega
  · simp [classify_eq_oor_iff]; omega

/-! The order of bits in a byte stream. -/

/-- A byte more in front: the bits of that byte come first. -/
theorem unpackBytes_cons (b : Byte) (bytes : List Byte) :
    unpackBytes (b :: bytes) = bitsOfNat 8 b.toNat ++ unpackBytes bytes := rfl

/-- Bit `p` of a byte stream, byte by byte (R45). -/
theorem getElem?_unpackBytes (bytes : List Byte) (p : Nat) (h : p < 8 * bytes.length) :
    ∃ b, bytes[p / 8]? = some b ∧ (unpackBytes bytes)[p]? = some (b.getLsbD (7 - p % 8)) := by
  induction bytes generalizing p with
  | nil => simp at h
  | cons b bytes ih =>
    rw [unpackBytes_cons]
    by_cases hp : p < 8
    · refine ⟨b, by simp [Nat.div_eq_of_lt hp], ?_⟩
      rw [List.getElem?_append_left (by simpa using hp), getElem?_bitsOfNat 8 _ p hp, Nat.mod_eq_of_lt hp]
      rfl
    · obtain ⟨q, rfl⟩ : ∃ q, p = q + 8 := ⟨p - 8, by omega⟩
      obtain ⟨b', hb', hbit⟩ := ih q (by simp at h; omega)
      refine ⟨b', by simpa using hb', ?_⟩
      rw [List.getElem?_append_right (by simp)]
      simpa using hbit

/-- Bit `p` of eight bits is bit `7 - p` of the byte packed from them. -/
theorem getElem?_eq_getLsbD_byte (bits : Bits) (hl : bits.length = 8) (p : Nat) (hp : p < 8) :
    bits[p]? = some ((BitVec.ofNat 8 (natOfBits bits)).getLsbD (7 - p)) := by
  have hb : bitsOfNat 8 (natOfBits bits) = bits := hl ▸ bitsOfNat_natOfBits bits
  have hlt : natOfBits bits < 2 ^ 8 := hl ▸ natOfBits_lt bits
  have hj := getElem?_bitsOfNat 8 (natOfBits bits) p hp
  rw [hb] at hj
  rw [hj, BitVec.getLsbD, BitVec.toNat_ofNat, Nat.mod_eq_of_lt hlt]

/-- Bit `p` of a bit sequence is bit `7 - (p mod 8)` of byte `p div 8` of the bytes packed from it: eight bits make a
byte, and a shorter rest is completed with zeros (R44, R45). -/
theorem getElem?_packBits (bits : Bits) (p : Nat) (h : p < bits.length) :
    ∃ b, (packBits bits)[p / 8]? = some b ∧ bits[p]? = some (b.getLsbD (7 - p % 8)) := by
  induction bits using packBits.induct generalizing p with
  | case1 b7 b6 b5 b4 b3 b2 b1 b0 rest ih =>
    rw [packBits]
    by_cases hp : p < 8
    · refine ⟨_, by rw [Nat.div_eq_of_lt hp]; rfl, ?_⟩
      rw [Nat.mod_eq_of_lt hp, ← getElem?_eq_getLsbD_byte _ rfl p hp]
      exact List.getElem?_append_left (l₁ := [b7, b6, b5, b4, b3, b2, b1, b0]) hp
    · obtain ⟨q, rfl⟩ : ∃ q, p = q + 8 := ⟨p - 8, by omega⟩
      obtain ⟨b, hb, hbit⟩ := ih q (by simp at h; omega)
      exact ⟨b, by simpa using hb, by simpa using hbit⟩
  | case2 => simp at h
  | case3 short hlong hne =>
    have hshort : short.length < 8 := by
      rcases short with _ | ⟨a, _ | ⟨b, _ | ⟨c, _ | ⟨d, _ | ⟨e, _ | ⟨f, _ | ⟨g, _ | ⟨i, l⟩⟩⟩⟩⟩⟩⟩⟩ <;> simp
      exact (hlong _ _ _ _ _ _ _ _ _ rfl).elim
    have hl : ((short ++ List.replicate 7 false).take 8).length = 8 := by simp; omega
    rw [packBits.eq_3 short hlong hne]
    refine ⟨_, by rw [Nat.div_eq_of_lt (by omega)]; rfl, ?_⟩
    rw [Nat.mod_eq_of_lt (by omega), ← getElem?_eq_getLsbD_byte _ hl p (by omega)]
    rw [List.getElem?_take_of_lt (by omega), List.getElem?_append_left h]

/-- Settles O5, by the two recursions. -/
theorem streamBitOfByte : Obligations.StreamBitOfByte :=
  ⟨getElem?_unpackBytes, getElem?_packBits⟩

end Sys2Proof
end

section
/-! PROOFS. What a step runs (spec/45_mode_selection_and_control.md R166 to R168, spec/43_encoder.md R127,
spec/44_decoder.md R142): the fetch case by case, and that a Decoder's step is the read of a codeword. -/

namespace Sys2Proof.Machine

theorem step_of_request {s : State} {r : Request} (h : s.request = some r) :
    step s = exec (decodeRequest r) { s with request := none } := by
  simp [step, fetch, h]

theorem step_of_halted {s : State} (hr : s.request = none) (hs : s.st = .halted) : step s = .fault .haltedNoRequest := by
  simp [step, fetch, hr, hs]

theorem fetch_of_encoder {s : State} (hr : s.request = none) (hd : s.dir = .enc) (hs : s.st = .running) :
    fetch s = fetchEncoder s := by
  simp [fetch, hr, hd, hs]

theorem fetch_of_decoder {s : State} (hr : s.request = none) (hd : s.dir = .dec) (hs : s.st ≠ .halted) :
    fetch s = fetchDecoder s := by
  cases h : s.st with
  | halted => exact absurd h hs
  | awaitFirst => simp [fetch, hr, hd, h]
  | running => simp [fetch, hr, hd, h]

/-- A Decoder's step is the read of a codeword and the run of its class, or the read's error (R142 to R144). -/
theorem step_of_decoder {s : State} (hr : s.request = none) (hd : s.dir = .dec) (hs : s.st ≠ .halted) :
    step s = readCodeword s := by
  unfold step readCodeword
  rw [fetch_of_decoder hr hd hs]
  rcases fetchDecoder_cases s hs with ⟨hb, e⟩ | ⟨c, i, hb, hc, e⟩
  · simp [hb, e]
  · have hc' : classify (advance s.w s).st (advance s.w s).cc c = some i := hc
    simp [hb, e, runClass_exec hc' hs]

theorem exec_decFirst {s : State} (hd : s.dir = .dec) (hs : s.st = .awaitFirst) : exec .decFirst s = readCodeword s := by
  simp [exec, execDecFirst, hd, hs]

theorem exec_decNext {s : State} (hd : s.dir = .dec) (hs : s.st = .running) : exec .decNext s = readCodeword s := by
  simp [exec, execDecNext, hd, hs]

/-- Settles O6, by the fetch of a request. -/
theorem stepTakesTheHostCommand : Obligations.StepTakesTheHostCommand :=
  fun _ _ => ⟨step_of_request, step_of_request⟩

/-- Settles O7: the fetch reads with the same decoder. -/
theorem stepRunsDecodedCodeword : Obligations.StepRunsDecodedCodeword := by
  intro s i rest hr hd hs h
  have hf : fetchDecoder s = .run i (advance s.w s) := by simp [fetchDecoder, h]
  unfold step
  rw [fetch_of_decoder hr hd hs, hf]
  rfl

/-- Settles O8: the Encoder's operation by CUR, the Decoder's is the read of a codeword in both its states. -/
theorem stepRunsTheEnabledOperation : Obligations.StepRunsTheEnabledOperation := by
  refine fun s hr => ⟨fun hd hs => ⟨fun hc => ?_, fun hc => ?_⟩, fun hd => ⟨fun hs => ?_, fun hs => ?_⟩,
    step_of_halted hr⟩
  · simp [step, fetch_of_encoder hr hd hs, fetchEncoder, inputLength, hc]
  · simp [step, fetch_of_encoder hr hd hs, fetchEncoder, inputLength, hc]
  · rw [step_of_decoder hr hd (by simp [hs]), exec_decFirst hd hs]
  · rw [step_of_decoder hr hd (by simp [hs]), exec_decNext hd hs]

/-- Settles O9: the three values that the power-on state is written with. -/
theorem powerOnState : Obligations.PowerOnState := ⟨rfl, rfl, rfl⟩

/-- Settles O13: CMD 0b011 decodes to START.RESERVED, which is refused whatever the state. -/
theorem reservedCommandIsRefused : Obligations.ReservedCommandIsRefused :=
  fun _ => ⟨rfl, step_of_request⟩

/-- Settles O14: the answer is the three codes, which are those of decision D9. -/
theorem statusReportsOnly : Obligations.StatusReportsOnly :=
  ⟨fun _ => rfl, rfl, rfl, rfl, rfl, rfl, rfl, rfl⟩

end Sys2Proof.Machine
end

section
/-! PROOFS. The tag and the two starts (spec/45_mode_selection_and_control.md R162 to R169, spec/43_encoder.md R126,
spec/44_decoder.md R141): what a tag that has been read does, and each start's next state as one record. -/

namespace Sys2Proof.Machine

/-! A tag that has been read. -/

theorem takeTag_tagOf (m : Mode) (s : State) : takeTag (tagOf m) s = (true, { s with mode := m }) := by
  simp [takeTag, modeOfTag_tagOf]

theorem takeTag_illegal {tag : Byte} (h : ∀ m, tag ≠ tagOf m) (s : State) :
    takeTag tag s = (false, raiseAtStart .malformedModeTag (tag.setWidth 16) s) := by
  simp [takeTag, (modeOfTag_eq_none_iff tag).2 h]

theorem execTagSymbol_of_halted {s : State} (hs : s.st = .halted) (tag : Byte) :
    execTagSymbol tag s = .next (takeTag tag s).2 := by
  simp [execTagSymbol, hs]

theorem execTagSymbol_of_run {s : State} (hs : s.st ≠ .halted) (tag : Byte) :
    execTagSymbol tag s = .refused .notEnabled := by
  cases h : s.st with
  | halted => exact absurd h hs
  | awaitFirst => simp [execTagSymbol, h]
  | running => simp [execTagSymbol, h]

theorem execTagInvalid_of_illegal {tag : Byte} (h : ∀ m, tag ≠ tagOf m) (s : State) :
    execTagInvalid tag s = execTagSymbol tag s := by
  simp [execTagInvalid, (modeOfTag_eq_none_iff tag).2 h]

/-! The read of a tag. -/

/-- Where an illegal tag stands next in the stream, TAG.read takes its 8 bits and raises MalformedModeTag (R174). -/
theorem readTag_of_illegal_bits {s : State} {tag : Byte} {rest : Bits} (h : ∀ m, tag ≠ tagOf m)
    (hbits : s.inbits.drop s.rp = bitsOfNat 8 tag.toNat ++ rest) :
    readTag s = (false, raiseAtStart .malformedModeTag (tag.setWidth 16) (advance 8 s)) := by
  have hread : bitRead 8 s = some (BitVec.ofNat 16 tag.toNat, advance 8 s) := bitRead_of_bits hbits tag.isLt
  simp [readTag, hread, takeTag_illegal h]

/-- With fewer than 8 bits left TAG.read takes none and raises TruncatedStream(8) (R175). -/
theorem readTag_of_short {s : State} (h : (s.inbits.drop s.rp).length < 8) :
    readTag s = (false, raiseAtStart .truncatedStream 8 s) := by
  simp [readTag, (bitRead_eq_none 8 s).2 h]

theorem execTagRead_of_halted {s : State} (hs : s.st = .halted) : execTagRead s = .next (readTag s).2 := by
  simp [execTagRead, hs]

/-- Settles O20: the eight bits of each tag. -/
theorem tagWriteAppendsTheTag : Obligations.TagWriteAppendsTheTag := fun _ => ⟨rfl, rfl, rfl⟩

/-- Settles O21: each symbol is its byte taken, in Halted only. -/
theorem tagSymbols : Obligations.TagSymbols := by
  have legal {s : State} (hs : s.st = .halted) (m : Mode) :
      execTagSymbol (tagOf m) s = .next { s with mode := m } := by
    rw [execTagSymbol_of_halted hs, takeTag_tagOf]
  refine fun s => ⟨fun hs => ⟨legal hs .none, legal hs .periodic, legal hs .monitored, fun tag htag => ?_⟩,
    fun hs => ⟨execTagSymbol_of_run hs _, execTagSymbol_of_run hs _, execTagSymbol_of_run hs _, fun tag htag => ?_⟩⟩
  · have hexec : exec (.tagInvalid tag) s = .next (raiseAtStart .malformedModeTag (tag.setWidth 16) s) := by
      rw [exec, execTagInvalid_of_illegal htag, execTagSymbol_of_halted hs, takeTag_illegal htag]
    exact ⟨_, hexec, by simp⟩
  · rw [exec, execTagInvalid_of_illegal htag, execTagSymbol_of_run hs]

/-- Settles O22, by what stands next in the stream. -/
theorem tagReadSelectsTheMode : Obligations.TagReadSelectsTheMode := by
  refine fun s hs => ⟨fun m rest hbits => ?_, fun tag rest hbits htag => ?_, fun hshort => ?_⟩
  · rw [exec, execTagRead_of_halted hs, readTag_of_bits hbits]
    rfl
  · have hexec : exec .tagRead s = .next (raiseAtStart .malformedModeTag (tag.setWidth 16) (advance 8 s)) := by
      rw [exec, execTagRead_of_halted hs, readTag_of_illegal_bits htag hbits]
    exact ⟨_, hexec, by simp⟩
  · have hexec : exec .tagRead s = .next (raiseAtStart .truncatedStream 8 s) := by
      rw [exec, execTagRead_of_halted hs, readTag_of_short hshort]
    exact ⟨_, hexec, by simp⟩

/-! The starts. -/

/-- ENC.start's next state (R126, R40). -/
theorem encLoad_eq (m : Mode) (s : State) :
    encLoad m s = { s with
      dir := .enc, mode := m, err := .none, errinfo := 0, dict := (dictInit s).dict, w := 9, l := 512, cc := 257
      cur := 0, u := 0, c := 0, bu := 0, bc := 0, mon := false
      outbits := bitsOfNat 8 (tagOf m).toNat, st := .running } := by
  cases m <;> rfl

/-- DEC.start's next state on a legal tag (R141, R40). -/
theorem decBegin_of_tag {s : State} {m : Mode} {rest : Bits} (h : s.inbits = bitsOfNat 8 (tagOf m).toNat ++ rest) :
    decBegin s = { s with
      dir := .dec, mode := m, err := .none, errinfo := 0, outb := [], rp := 8, tab := (tabInit s).tab
      w := 9, l := 512, cc := 257, prior := none, u := 0, c := 0, bu := 0, bc := 0, mon := false
      st := .awaitFirst } := by
  have hread : readTag (decPrepare s) = (true, { advance 8 (decPrepare s) with mode := m }) := readTag_of_bits h
  simp only [decBegin, hread]
  rfl

theorem decBegin_of_illegal_tag {s : State} {tag : Byte} {rest : Bits} (htag : ∀ m, tag ≠ tagOf m)
    (h : s.inbits = bitsOfNat 8 tag.toNat ++ rest) :
    decBegin s = raiseAtStart .malformedModeTag (tag.setWidth 16) (advance 8 (decPrepare s)) := by
  have hread := readTag_of_illegal_bits (s := decPrepare s) htag h
  simp only [decBegin, hread]

theorem decBegin_of_short {s : State} (h : s.inbits.length < 8) :
    decBegin s = raiseAtStart .truncatedStream 8 (decPrepare s) := by
  have hread := readTag_of_short (s := decPrepare s) h
  simp only [decBegin, hread]

theorem execEncStart_of_run {s : State} (m : Mode) (hs : s.st ≠ .halted) :
    execEncStart m s = .refused .startWhileRunning := by
  cases h : s.st with
  | halted => exact absurd h hs
  | awaitFirst => simp [execEncStart, h]
  | running => simp [execEncStart, h]

theorem execDecStart_of_run {s : State} (hs : s.st ≠ .halted) : execDecStart s = .refused .startWhileRunning := by
  cases h : s.st with
  | halted => exact absurd h hs
  | awaitFirst => simp [execDecStart, h]
  | running => simp [execDecStart, h]

/-- START(1, -) is DEC.start (R167). -/
theorem exec_expand_start {i : Instr} {x : BitVec 2} (hi : i = .decStart ∨ i = .startExpand x) (s : State) :
    exec i s = execDecStart s := by
  rcases hi with rfl | rfl <;> rfl

/-- Settles O10: the four instructions are one meaning, whose next state is `encLoad_eq`. -/
theorem compressStartLoads : Obligations.CompressStartLoads := by
  intro s m i hi
  have hexec : exec i s = execEncStart m s := by
    rcases hi with rfl | ⟨rfl, rfl⟩ | ⟨rfl, rfl⟩ | ⟨rfl, rfl⟩ <;> rfl
  rw [hexec]
  exact ⟨fun hs => by rw [execEncStart_of_halted m hs, encLoad_eq], execEncStart_of_run m⟩

/-- Settles O11: the two instructions are one meaning, whose next state is `decBegin_of_tag`. -/
theorem expandStartLoads : Obligations.ExpandStartLoads := by
  intro s m rest x i hi
  rw [exec_expand_start hi]
  exact ⟨fun hs hbits => by rw [execDecStart_of_halted hs, decBegin_of_tag hbits], execDecStart_of_run⟩

/-- Settles O12: the error is raised in the prepared state, and the registers it draws anew are not among those named. -/
theorem expandStartErrors : Obligations.ExpandStartErrors := by
  intro s x i hi hs
  rw [exec_expand_start hi, execDecStart_of_halted hs]
  refine ⟨fun hshort => ⟨_, rfl, ?_⟩, fun tag rest hbits htag => ⟨_, rfl, ?_⟩⟩
  · simp [decBegin_of_short hshort, decPrepare]
  · simp [decBegin_of_illegal_tag htag hbits, decPrepare]

/-- Settles O15: no field named is among those that `encLoad_eq` or `decBegin_of_tag` takes from the earlier state, but
IN and INBITS. -/
theorem startForgetsEarlierRun : Obligations.StartForgetsEarlierRun := by
  refine fun s s' m hs hs' => ⟨fun hin => ?_, fun rest hbits hbits' => ?_⟩
  · refine ⟨_, _, execEncStart_of_halted m hs, execEncStart_of_halted m hs', ?_⟩
    simp [encLoad_eq, hin, dictInit]
  · refine ⟨_, _, execDecStart_of_halted hs, execDecStart_of_halted hs', ?_⟩
    simp [decBegin_of_tag hbits, decBegin_of_tag (hbits'.trans hbits), hbits', tabInit]

end Sys2Proof.Machine
end

section
/-! PROOFS. The bit channel and the byte buffers (spec/20_memory.md R42 to R49): where each bit of a write lands, and
which bits a read takes. -/

namespace Sys2Proof.Machine

theorem execBitWrite_of_le (s : State) (v : Codeword) {n : Nat} (h1 : 1 ≤ n) (h16 : n ≤ 16) :
    execBitWrite v n s = .next (bitWrite v n s) := by
  simp [execBitWrite, h1, h16]

/-- BitRead(n) of bits that hold `v` (R43). -/
theorem execBitRead_of_bits {s : State} {v : Codeword} {n : Nat} {rest : Bits} (h1 : 1 ≤ n) (h16 : n ≤ 16)
    (hv : v.toNat < 2 ^ n) (hbits : s.inbits.drop s.rp = bitsOfNat n v.toNat ++ rest) :
    execBitRead n s = .next { s with rp := s.rp + n, result := .codeword v } := by
  simp [execBitRead, h1, h16, bitRead_of_bits hbits hv, answer, advance]

theorem execBitRead_of_short {s : State} {n : Nat} (h1 : 1 ≤ n) (h16 : n ≤ 16)
    (hshort : (s.inbits.drop s.rp).length < n) : execBitRead n s = .next { s with result := .exhausted } := by
  simp [execBitRead, h1, h16, (bitRead_eq_none n s).2 hshort, answer]

/-- Any `n` bits are the bits of an `n`-bit value (R43). -/
theorem exists_codeword_of_bits {bits : Bits} {n : Nat} (h16 : n ≤ 16) (hl : n ≤ bits.length) :
    ∃ v : Codeword, v.toNat < 2 ^ n ∧ bits = bitsOfNat n v.toNat ++ bits.drop n := by
  have hread : readBits n bits = some (natOfBits (bits.take n), bits.drop n) := by simp [readBits, hl]
  refine ⟨BitVec.ofNat 16 (natOfBits (bits.take n)), ?_, readBits_some_ofNat hread h16⟩
  rw [BitVec.toNat_ofNat]
  exact lt_of_le_of_lt (Nat.mod_le _ _) (readBits_some hread).2

/-- Settles O16: the bits written are `bitsOfNat`, the most significant first. -/
theorem bitWriteAppends : Obligations.BitWriteAppends := by
  intro s v n h1 h16
  exact ⟨bitsOfNat n v.toNat, execBitWrite_of_le s v h1 h16, length_bitsOfNat n _, getElem?_bitsOfNat n _⟩

/-- Settles O17, by whether `n` bits are left. -/
theorem bitReadTakes : Obligations.BitReadTakes := by
  refine fun s n h1 h16 => ⟨fun hn => ?_, fun hn => ?_⟩
  · obtain ⟨v, hv, hbits⟩ := exists_codeword_of_bits (bits := s.inbits.drop s.rp) h16 (by simp; omega)
    refine ⟨v, execBitRead_of_bits h1 h16 hv hbits, hv, fun j hj => ?_⟩
    rw [← List.getElem?_drop, hbits, List.getElem?_append_left (by simpa using hj), getElem?_bitsOfNat n _ j hj]
    rfl
  · exact execBitRead_of_short h1 h16 (by simp; omega)

/-- Settles O18, by the three meanings. -/
theorem closeAndByteTransfers : Obligations.CloseAndByteTransfers := by
  refine fun s => ⟨⟨(8 - s.outbits.length % 8) % 8, by omega, by omega, rfl⟩, fun i b hb => ?_, fun bytes hl => ?_⟩
  · simp [exec, execInByte, inByte, hb, answer]
  · simp [exec, execOutBytes, hl, outBytes]

/-- Settles O19: the bits that stand at RP are the bits written. -/
theorem readBackOfWrite : Obligations.ReadBackOfWrite := by
  intro s t d v n more h1 h16 hv hwrite hin hrp
  obtain rfl : bitWrite v n s = t := by simpa [exec, execBitWrite_of_le s v h1 h16] using hwrite
  have hbits : d.inbits.drop d.rp = bitsOfNat n v.toNat ++ more := by simp [hin, hrp]
  rw [exec, execBitRead_of_bits h1 h16 hv hbits, hrp]
  simp

end Sys2Proof.Machine
end

section
/-! PROOFS. The PrefixDictionary and the CodeTable (spec/40_dictionary_and_table.md R81 to R94), each row under its
contract; and that the longest match is the longest key. -/

namespace Sys2Proof.Machine

/-- A key set that is closed (R36) holds, with a string, each of its nonempty initial parts. -/
theorem isSome_dictGet_take {s : State} (hclosed : ∀ (k : Str) (b : Byte), k ≠ [] →
    (dictGet s (k ++ [b])).isSome → (dictGet s k).isSome) {k : Str} (hk : (dictGet s k).isSome) {n : Nat} (h1 : 1 ≤ n)
    (hn : n ≤ k.length) : (dictGet s (k.take n)).isSome := by
  induction hn using Nat.decreasingInduction with
  | self => simpa using hk
  | of_succ n hlt ih =>
    have hne : k.take n ≠ [] := by
      rw [← List.length_pos_iff, List.length_take]
      omega
    refine hclosed (k.take n) k[n] hne ?_
    rw [List.take_append_getElem hlt]
    exact ih (by omega)

/-- The longest match stops where the input ends or the next longer string is no key (R82). -/
theorem longestPrefix_stops {s : State} {i t : Nat} (hf : longestPrefix i s = some ((s.input.drop i).take t))
    (h1 : 1 ≤ t) (ht : i + t < s.input.length) : dictGet s ((s.input.drop i).take (t + 1)) = none := by
  unfold longestPrefix at hf
  cases hd : s.input.drop i with
  | nil => rw [hd] at hf; cases hf
  | cons b rest =>
    obtain ⟨n, rfl⟩ : ∃ n, t = n + 1 := ⟨t - 1, by omega⟩
    have hl : rest.length + 1 = s.input.length - i := by rw [← List.length_drop, hd]; rfl
    rw [hd] at hf
    have he : extendMatch s [b] rest = [b] ++ rest.take n := by simpa using hf
    simpa using extendMatch_stops s [b] rest n he (by omega)

/-- The longest match is a key, if the single bytes are (R82). -/
theorem longestPrefix_isKey {s : State} {i : Nat} {found : Str} (hbytes : ∀ b : Byte, (dictGet s [b]).isSome)
    (hf : longestPrefix i s = some found) : (dictGet s found).isSome := by
  unfold longestPrefix at hf
  cases hd : s.input.drop i with
  | nil => rw [hd] at hf; cases hf
  | cons b rest =>
    rw [hd] at hf; cases hf
    exact extendMatch_isKey s [b] rest (hbytes b)

/-- Settles O23: an init writes the single bytes and nothing else. -/
theorem storeInitHoldsTheBytes : Obligations.StoreInitHoldsTheBytes :=
  fun s => ⟨⟨dictInit s, rfl, rfl, dictGet_dictInit_single s, dictGet_dictInit_other s, dictInit_wf s⟩,
    ⟨tabInit s, rfl, rfl, tabGet_tabInit_byte s, tabGet_tabInit_other s, tabInit_wf s⟩⟩

/-- Settles O24: the match is a key that the next byte does not extend, and since the key set is closed no longer
start of the remaining input is a key either. -/
theorem longestPrefixIsTheLongestKey : Obligations.LongestPrefixIsTheLongestKey := by
  intro s i hi hbytes hclosed
  rcases longestPrefix_cases i s with ⟨hge, -⟩ | ⟨-, t, h1, ht, hf, -⟩
  · omega
  refine ⟨t, h1, ht, ?_, longestPrefix_isKey hbytes hf, fun t' hlt ht' => ?_⟩
  · have hl : min t (s.input.length - i) = t := by omega
    simp [exec, execDictLongestPrefixOf, hf, answer, hl]
  · by_contra hne
    have hkey : (dictGet s ((s.input.drop i).take t')).isSome := Option.isSome_iff_ne_none.2 hne
    have hnext := isSome_dictGet_take hclosed hkey (n := t + 1) (by omega) (by simp; omega)
    rw [List.take_take, Nat.min_eq_left (by omega), longestPrefix_stops hf h1 (by omega)] at hnext
    cases hnext

/-- Settles O25, by the read after a write of DICT.insert. -/
theorem dictGetAndInsert : Obligations.DictGetAndInsert := by
  refine fun s k b c hk => ⟨by simp [exec, execDictGet, hk, answer], fun hnew hcc => ?_⟩
  have hexec : exec (.dictInsert k b) s = .next (dictInsert k b s) := by
    simp [exec, execDictInsert, hk, hnew, (notFullForInsert_iff s).2 hcc]
  refine ⟨dictInsert k b s, hexec, rfl, ?_, fun k' hk' => ?_, dictInsert_wf k b⟩
  · rw [dictGet_dictInsert, if_pos rfl]
  · rw [dictGet_dictInsert, if_neg hk']

/-- Settles O26, by the two forms of the operand. -/
theorem tabLookupAnswersTheValue : Obligations.TabLookupAnswersTheValue := by
  refine fun s c hcc => ⟨fun hlit => ?_, fun v hc hv => ?_⟩
  · simp [exec, execTabLookup, tabLookup, hcc, hlit, Nat.ne_of_lt hlit, answer]
  · simp [exec, execTabLookup, tabLookup, hcc, hv, show ¬ c.toNat = 256 by omega, show ¬ c.toNat < 256 by omega, answer]

/-- Settles O27, by the read after a write of TAB.append. -/
theorem tabAppendAssignsTheNextIndex : Obligations.TabAppendAssignsTheNextIndex := by
  intro s v hv hcc
  have hexec : exec (.tabAppend v) s = .next (tabAppend v s) := by
    simp [exec, execTabAppend, hv, (notFullForInsert_iff s).2 hcc]
  refine ⟨tabAppend v s, hexec, rfl, ?_, fun i hi => ?_, tabAppend_wf v⟩
  · rw [tabGet_tabAppend, if_pos rfl]
  · rw [tabGet_tabAppend, if_neg hi]

/-- Settles O28: the guard `CC < L` fails in all four places. -/
theorem fullStoresTakeNoEntry : Obligations.FullStoresTakeNoEntry := by
  intro s hfull
  have hguard : notFullForInsert s = false := by simpa [notFullForInsert] using hfull
  refine ⟨fun k b c hk => ?_, fun v hv => ?_, fun found => ?_, fun prior first => ?_⟩
  · cases hnew : dictGet s (k ++ [b]) <;> simp [exec, execDictInsert, hk, hnew, hguard]
  · simp [exec, execTabAppend, hv, hguard]
  · rcases encInsert_cases found s with ⟨-, -, hcc, -⟩ | ⟨-, e⟩
    · omega
    · simp [e]
  · rcases decAppend_cases prior first s with ⟨hcc, -⟩ | ⟨-, e⟩
    · omega
    · simp [e]

end Sys2Proof.Machine
end

section
/-! PROOFS. The WidthController and the ResetPolicy (spec/41_width_controller.md, spec/42_reset_policy.md): the tests in
the form in which the statements have them, and the checks under each outcome of their test. -/

namespace Sys2Proof.Machine

/-- Fullness on either side: the count, lagging by one on the Decoder, against the capacity (R97). -/
theorem isFull_iff_lag (d : Dir) (s : State) : isFull d s = true ↔ s.cc + lag d = s.l := by
  cases d <;> simp [isFull, lag]

theorem growthCheck_of_trigger {d : Dir} {s : State} (h : s.cc + lag d = s.l ∧ s.w < 16) :
    growthCheck d s = { s with w := s.w + 1, l := s.l * 2 } := by
  rcases growthCheck_cases d s with ⟨-, -, e⟩ | ⟨hn, -⟩
  · exact e
  · exact absurd (h.imp_left (isFull_iff_lag d s).2) hn

theorem growthCheck_of_not_trigger {d : Dir} {s : State} (h : ¬ (s.cc + lag d = s.l ∧ s.w < 16)) :
    growthCheck d s = s := by
  rcases growthCheck_cases d s with ⟨hf, hw, -⟩ | ⟨-, e⟩
  · exact absurd ⟨(isFull_iff_lag d s).1 hf, hw⟩ h
  · exact e

theorem fullAtMaxWidth_iff_lag (d : Dir) (s : State) :
    fullAtMaxWidth d s = true ↔ s.cc + lag d = s.l ∧ s.w = 16 := by
  rw [fullAtMaxWidth_iff, isFull_iff_lag]

theorem rpCheckPeriodic_of_full {d : Dir} {s : State} (h : s.cc + lag d = s.l ∧ s.w = 16) :
    rpCheckPeriodic d s = rpReset d s := by
  simp [rpCheckPeriodic, (fullAtMaxWidth_iff_lag d s).2 h]

theorem rpCheckPeriodic_of_not_full {d : Dir} {s : State} (h : ¬ (s.cc + lag d = s.l ∧ s.w = 16)) :
    rpCheckPeriodic d s = s := by
  simp [rpCheckPeriodic, mt (fullAtMaxWidth_iff_lag d s).1 h]

theorem rpCheckMonitored_of_degraded {d : Dir} {s : State} (hm : s.mon = true)
    (h : 11 * s.bc * s.u ≤ 10 * s.bu * s.c) : rpCheckMonitored d s = rpReset d s := by
  simp [rpCheckMonitored, hm, (degraded_iff s).2 h]

theorem rpCheckMonitored_of_not_degraded {d : Dir} {s : State} (hm : s.mon = true)
    (h : 10 * s.bu * s.c < 11 * s.bc * s.u) : rpCheckMonitored d s = s := by
  simp [rpCheckMonitored, hm, mt (degraded_iff s).1 (Nat.not_le.2 h)]

theorem rpCheckMonitored_of_full {d : Dir} {s : State} (hm : s.mon = false)
    (h : s.cc + lag d = s.l ∧ s.w = 16) : rpCheckMonitored d s = rtCapture s := by
  simp [rpCheckMonitored, hm, (fullAtMaxWidth_iff_lag d s).2 h]

theorem rpCheckMonitored_of_not_full {d : Dir} {s : State} (hm : s.mon = false)
    (h : ¬ (s.cc + lag d = s.l ∧ s.w = 16)) : rpCheckMonitored d s = s := by
  simp [rpCheckMonitored, hm, mt (fullAtMaxWidth_iff_lag d s).1 h]

/-- Settles O29, by the test of W against 16. -/
theorem widthInitAndGrow : Obligations.WidthInitAndGrow := by
  refine fun s => ⟨rfl, fun hw => ?_, fun hw => ?_⟩
  · simp [exec, execWcGrow, wcGrow, hw]
  · simp [exec, execWcGrow, wcGrow, Nat.not_lt.2 hw]

/-- Settles O30: the two tests as they are defined for each side. -/
theorem fullnessTests : Obligations.FullnessTests := by
  intro s
  refine ⟨rfl, rfl, ?_, ?_⟩ <;>
    simp [exec, execWcShouldGrow, shouldGrow, isFull, answer, Bool.decide_and]

/-- Settles O31: after a growth the count is half the capacity, so the trigger is off. -/
theorem growthCheckGrowsOnce : Obligations.GrowthCheckGrowsOnce := by
  intro s d
  refine ⟨fun h => ?_, fun h => ?_, fun t hl ht => ?_⟩
  · rw [exec, execWcGrowthCheck, growthCheck_of_trigger h]
  · rw [exec, execWcGrowthCheck, growthCheck_of_not_trigger h]
  · obtain rfl : growthCheck d s = t := by simpa [exec, execWcGrowthCheck] using ht
    by_cases h : s.cc + lag d = s.l ∧ s.w < 16
    · rw [growthCheck_of_trigger h]
      rintro ⟨hcc, -⟩
      simp only at hcc
      omega
    · rwa [growthCheck_of_not_trigger h]

/-- Settles O32: the reset's two records. -/
theorem policyResetRestoresTheStart : Obligations.PolicyResetRestoresTheStart := fun _ => ⟨rfl, rfl⟩

/-- Settles O33: the check selects by MODE. -/
theorem policyCheckFollowsTheMode : Obligations.PolicyCheckFollowsTheMode := by
  refine fun s d => ⟨rfl, fun hm => ?_, fun hm => ⟨rpCheckPeriodic d s, ?_, rfl⟩, fun hm => ⟨rpCheckMonitored d s, ?_, rfl⟩⟩
  all_goals simp [exec, execRpCheck, rpCheck, hm, rpCheckNone]

/-- Settles O34, by whether the store is full at W = 16. -/
theorem periodicCheckResetsWhenFull : Obligations.PeriodicCheckResetsWhenFull := by
  refine fun s d => ⟨fun h => ⟨rpReset d s, ?_, rfl⟩, fun h => ?_⟩
  · rw [exec, execRpCheckPeriodic, rpCheckPeriodic_of_full h]
  · rw [exec, execRpCheckPeriodic, rpCheckPeriodic_of_not_full h]

/-- Settles O35, by MON and by the test made under it. -/
theorem monitoredCheckCapturesThenResets : Obligations.MonitoredCheckCapturesThenResets := by
  refine fun s d => ⟨fun hm => ⟨fun h => ⟨rpReset d s, ?_, rfl⟩, fun h => ?_⟩, fun hm => ⟨fun h => ?_, fun h => ?_⟩⟩
  · rw [exec, execRpCheckMonitored, rpCheckMonitored_of_degraded hm h]
  · rw [exec, execRpCheckMonitored, rpCheckMonitored_of_not_degraded hm h]
  · rw [exec, execRpCheckMonitored, rpCheckMonitored_of_full hm h, rtCapture]
  · rw [exec, execRpCheckMonitored, rpCheckMonitored_of_not_full hm h]

/-- Settles O36, by MODE. -/
theorem trackerUpdateAndCapture : Obligations.TrackerUpdateAndCapture := by
  refine fun s => ⟨rfl, fun t ht => ⟨fun hm => ?_, fun hm => ?_⟩⟩
  · simp [exec, execRtUpdate, ht, rtUpdate_eq_ite, hm]
  · simp [exec, execRtUpdate, ht, rtUpdate_eq_ite, hm]

/-- The cross product is the comparison of the two ratios (R116). -/
theorem degraded_iff_ratio {u c bu bc : Nat} (hu : 0 < u) (hc : 0 < c) (hbc : 0 < bc) :
    11 * bc * u ≤ 10 * bu * c ↔ (11 : ℚ) / 10 ≤ ((bu : ℚ) / bc) / ((u : ℚ) / c) := by
  have hu' : (0 : ℚ) < u := by exact_mod_cast hu
  have hc' : (0 : ℚ) < c := by exact_mod_cast hc
  have hbc' : (0 : ℚ) < bc := by exact_mod_cast hbc
  rw [div_div_div_eq, div_le_div_iff₀ (by norm_num) (by positivity)]
  have hcast : 11 * bc * u ≤ 10 * bu * c ↔ (11 * bc * u : ℚ) ≤ 10 * bu * c := by exact_mod_cast Iff.rfl
  rw [hcast]
  constructor <;> intro h <;> linarith

/-- Settles O37: the model's test is the cross product of `degraded_iff_ratio`. -/
theorem degradedIsTheRationalTest : Obligations.DegradedIsTheRationalTest :=
  fun _ => ⟨rfl, fun hu hc _ hbc => degraded_iff_ratio hu hc hbc⟩

end Sys2Proof.Machine
end

section
/-! PROOFS. The Encoder's symbols (spec/43_encoder.md R128, R131): what the state before the policy check holds, and the
frame of ENC.step. -/

namespace Sys2Proof.Machine

/-- The insert of ENC.step, as it stands before the policy check: the match and the next byte at CC, or nothing because
the input ends or DICT is full (R97, R128). -/
theorem encBeforePolicy_insert_cases (found : Str) (code : Codeword) (s : State) :
    (∃ b, s.input[s.cur + found.length]? = some b ∧ s.cc < s.l ∧ (encBeforePolicy found code s).cc = s.cc + 1 ∧
      ∀ k, dictGet (encBeforePolicy found code s) k =
        if k = found ++ [b] then some (BitVec.ofNat 16 s.cc) else dictGet s k) ∨
    ((s.input.length ≤ s.cur + found.length ∨ s.l ≤ s.cc) ∧ (encBeforePolicy found code s).cc = s.cc ∧
      ∀ k, dictGet (encBeforePolicy found code s) k = dictGet s k) := by
  simp only [← growthCheck_encInsert_eq_encBeforePolicy, dictGet, growthCheck_dict, growthCheck_cc]
  rcases encInsert_cases found (rtUpdate found.length (bitWrite code s.w s)) with ⟨b, hb, hcc, e⟩ | ⟨hno, e⟩
  · rw [e]
    refine .inl ⟨b, by simpa using hb, by simpa using hcc, by simp, fun k => ?_⟩
    simpa [dictGet] using dictGet_dictInsert found b (rtUpdate found.length (bitWrite code s.w s)) k
  · rw [e]
    exact .inr ⟨by simpa using hno, by simp, fun k => by simp⟩

/-- The growth check of ENC.step takes CC after the insert (R100, R101). -/
theorem encBeforePolicy_growth_cases (found : Str) (code : Codeword) (s : State) :
    ((encBeforePolicy found code s).cc = s.l ∧ s.w < 16 ∧ (encBeforePolicy found code s).w = s.w + 1 ∧
      (encBeforePolicy found code s).l = s.l * 2) ∨
    (¬ ((encBeforePolicy found code s).cc = s.l ∧ s.w < 16) ∧ (encBeforePolicy found code s).w = s.w ∧
      (encBeforePolicy found code s).l = s.l) := by
  by_cases h : (encBeforePolicy found code s).cc = s.l ∧ s.w < 16
  · exact .inl ⟨h.1, h.2, if_pos h, if_pos h⟩
  · exact .inr ⟨h, if_neg h, if_neg h⟩

/-- What the state before the policy check keeps of the step's begin: all but the stream, the counters, the width state
and one key (R128). -/
theorem encBeforePolicy_shape (found : Str) (code : Codeword) (s : State) :
    ∃ outbits dict cc u c w l,
      encBeforePolicy found code s =
        { s with outbits := outbits, dict := dict, cc := cc, u := u, c := c, w := w, l := l } ∧
      (∀ k, (∀ b, s.input[s.cur + found.length]? = some b → k ≠ found ++ [b]) → assocGet dict k = dictGet s k) ∧
      (s.mode ≠ .monitored → u = s.u ∧ c = s.c) := by
  refine ⟨_, (encBeforePolicy found code s).dict, _, _, _, _, _, rfl, fun k hk => ?_, fun hm => ⟨if_neg hm, if_neg hm⟩⟩
  rcases encBeforePolicy_insert_cases found code s with ⟨b, hb, -, -, hget⟩ | ⟨-, -, hget⟩
  · exact (hget k).trans (if_neg (hk b hb))
  · exact hget k

/-- Only a policy check in mode PERIODIC or MONITORED resets (R107 to R111). -/
theorem mode_ne_none_of_resetsOn {d : Dir} {s : State} (h : ResetsOn d s) : s.mode ≠ .none := by
  rcases h with ⟨h, -⟩ | ⟨h, -⟩ <;> simp [h]

/-- Settles O39: the shape of the state before the policy check, then the three outcomes of the check. -/
theorem encStepFrame : Obligations.EncStepFrame := by
  intro s t found hf h
  obtain ⟨-, -, found', code, hf', -, rfl⟩ := execEncStep_next h
  obtain rfl : found' = found := Option.some.inj (hf'.symm.trans hf)
  obtain ⟨outbits, dict, cc, u, c, w, l, hshape, hkeys, htracker⟩ := encBeforePolicy_shape found' code s
  rw [encEmit_eq, hshape]
  rcases rpCheck_cases .enc { s with outbits := outbits, dict := dict, cc := cc, u := u, c := c, w := w, l := l } with
    ⟨hreset, e⟩ | ⟨-, hcapture, e⟩ | ⟨-, -, e⟩ <;> rw [e]
  · have hm : s.mode ≠ .none := fun h => mode_ne_none_of_resetsOn hreset h
    simp [rpReset_enc, restartWidth, clearTracker, wcInit, dictInit, hm]
  · have hm : s.mode = .monitored := hcapture.1
    refine ⟨rfl, rfl, rfl, rfl, rfl, rfl, rfl, rfl, rfl, rfl, rfl, rfl, rfl, rfl, ?_, .inr ⟨hkeys, ?_⟩⟩ <;> simp [hm]
  · refine ⟨rfl, rfl, rfl, rfl, rfl, rfl, rfl, rfl, rfl, rfl, rfl, rfl, rfl, rfl, fun hm => ?_,
      .inr ⟨hkeys, fun hm => ?_⟩⟩
    all_goals
      obtain ⟨hu, hc⟩ := htracker (by simp [hm])
      exact ⟨hu, hc, rfl, rfl, rfl⟩

/-- Settles O40: the pad is computed from the length with EOF. -/
theorem encEofEndsTheStream : Obligations.EncEofEndsTheStream := by
  intro s hd hs hc
  simp [exec, execEncEof, hd, hs, hc, inputLength, bitClose, bitWrite]

end Sys2Proof.Machine
end

section
/-! PROOFS. The Decoder's symbols (spec/44_decoder.md R143 to R147): each update as one record with the conditions under
which its fields change, their composition in the order of R147, the codeword read from the stream, and the frame. -/

namespace Sys2Proof.Machine

/-! The composition. -/

/-- The Decoder's growth check with its trigger, one early, at W and L (R98, R100, R101). -/
theorem growthCheck_dec_eq_ite (s : State) :
    growthCheck .dec s = { s with
      w := if s.cc + 1 = s.l ∧ s.w < 16 then s.w + 1 else s.w
      l := if s.cc + 1 = s.l ∧ s.w < 16 then s.l * 2 else s.l } := by
  by_cases h : s.cc + lag .dec = s.l ∧ s.w < 16
  · have h' : s.cc + 1 = s.l ∧ s.w < 16 := h
    rw [growthCheck_of_trigger h, if_pos h', if_pos h']
  · have h' : ¬ (s.cc + 1 = s.l ∧ s.w < 16) := h
    rw [growthCheck_of_not_trigger h, if_neg h', if_neg h']

/-- The Decoder's append with its condition CC < L at TAB and CC (R97, R147). -/
theorem decAppend_eq_ite (prior : Str) (first : Byte) (s : State) :
    decAppend prior first s = { s with
      tab := if s.cc < s.l then assocSet idxLt s.tab s.cc (prior ++ [first]) else s.tab
      cc := if s.cc < s.l then s.cc + 1 else s.cc } := by
  rcases decAppend_cases prior first s with ⟨hcc, e⟩ | ⟨hfull, e⟩
  · simp only [e, if_pos hcc, tabAppend]
  · simp only [e, if_neg (Nat.not_lt.2 hfull)]

/-- DEC.next with its value: the state before the policy check, then the policy check (R147). -/
theorem decNextValue_eq (prior : Str) (first : Byte) (more : Str) (s : State) :
    decNextValue prior first more s = rpCheck .dec (decBeforePolicy prior first more s) := by
  simp only [decNextValue, postStep, decAppend_eq_ite, rtUpdate_eq_ite, growthCheck_dec_eq_ite]
  rfl

/-- The append of DEC.next, as it stands before the policy check (R97, R147). -/
theorem decBeforePolicy_append_cases (prior : Str) (first : Byte) (more : Str) (s : State) :
    (s.cc < s.l ∧ (decBeforePolicy prior first more s).cc = s.cc + 1 ∧
      ∀ i, tabGet (decBeforePolicy prior first more s) i =
        if i = s.cc then some (prior ++ [first]) else tabGet s i) ∨
    (s.l ≤ s.cc ∧ (decBeforePolicy prior first more s).cc = s.cc ∧
      ∀ i, tabGet (decBeforePolicy prior first more s) i = tabGet s i) := by
  simp only [decBeforePolicy, tabGet]
  by_cases hcc : s.cc < s.l
  · exact .inl ⟨hcc, if_pos hcc, fun i => by rw [if_pos hcc, assocGet_assocSet]⟩
  · exact .inr ⟨Nat.not_lt.1 hcc, if_neg hcc, fun i => by rw [if_neg hcc]⟩

/-- The growth check of DEC.next, one early, takes CC after the append (R100, R101). -/
theorem decBeforePolicy_growth_cases (prior : Str) (first : Byte) (more : Str) (s : State) :
    ((decBeforePolicy prior first more s).cc + 1 = s.l ∧ s.w < 16 ∧
      (decBeforePolicy prior first more s).w = s.w + 1 ∧ (decBeforePolicy prior first more s).l = s.l * 2) ∨
    (¬ ((decBeforePolicy prior first more s).cc + 1 = s.l ∧ s.w < 16) ∧
      (decBeforePolicy prior first more s).w = s.w ∧ (decBeforePolicy prior first more s).l = s.l) := by
  by_cases h : (decBeforePolicy prior first more s).cc + 1 = s.l ∧ s.w < 16
  · exact .inl ⟨h.1, h.2, if_pos h, if_pos h⟩
  · exact .inr ⟨h, if_neg h, if_neg h⟩

/-- Where the table is not full at W = 16 and nothing is monitored, the policy check does nothing. -/
theorem rpCheck_of_quiet {d : Dir} {s : State} (hm : s.mon = false) (hf : ¬ (s.cc + lag d = s.l ∧ s.w = 16)) :
    rpCheck d s = s := by
  rcases rpCheck_cases d s with ⟨⟨-, h⟩ | ⟨-, h, -⟩, -⟩ | ⟨-, ⟨-, -, h⟩, -⟩ | ⟨-, -, e⟩
  · exact absurd ((fullAtMaxWidth_iff_lag d s).1 h) hf
  · simp [hm] at h
  · exact absurd ((fullAtMaxWidth_iff_lag d s).1 h) hf
  · exact e

/-- DEC.first with its value: with CC = 257 and L = 512 neither check does anything (R145, decision D18). -/
theorem decFirstValue_eq {s : State} (hcc : s.cc = 257) (hl : s.l = 512) (hm : s.mon = false) (b : Byte) :
    decFirstValue [b] s = { s with
      outb := s.outb ++ [b], prior := some [b], st := .running
      u := if s.mode = .monitored then s.u + 8 else s.u, c := if s.mode = .monitored then s.c + s.w else s.c } := by
  unfold decFirstValue postStep
  simp only [rtUpdate_eq_ite]
  rw [growthCheck_of_not_trigger (by simp [lag, hcc, hl]), rpCheck_of_quiet (by simpa using hm) (by simp [lag, hcc, hl])]
  rfl

/-! The read of a codeword. -/

/-- Where the bits of `c` stand next in the stream, a reading operation runs the class of `c` with RP past them (R143,
R144). -/
theorem readCodeword_of_bits {s : State} {c : Codeword} {i : Instr} {rest : Bits} (hs : s.st ≠ .halted)
    (hc : c.toNat < 2 ^ s.w) (hbits : s.inbits.drop s.rp = bitsOfNat s.w c.toNat ++ rest)
    (hcl : classify s.st s.cc c = some i) : readCodeword s = exec i (advance s.w s) := by
  have hread : bitRead s.w s = some (c, advance s.w s) := by simpa using bitRead_of_bits hbits hc
  have hcl' : classify (advance s.w s).st (advance s.w s).cc c = some i := hcl
  simp [readCodeword, hread, runClass_exec hcl' hs]

/-- A reading operation, by the state in which it is enabled (R142). -/
theorem exec_read_of_bits {s : State} {c : Codeword} {i : Instr} {rest : Bits} (hd : s.dir = .dec)
    (hc : c.toNat < 2 ^ s.w) (hbits : s.inbits.drop s.rp = bitsOfNat s.w c.toNat ++ rest)
    (hcl : classify s.st s.cc c = some i) :
    (s.st = .awaitFirst → exec .decFirst s = exec i (advance s.w s)) ∧
    (s.st = .running → exec .decNext s = exec i (advance s.w s)) := by
  refine ⟨fun hs => ?_, fun hs => ?_⟩
  · rw [exec_decFirst hd hs, readCodeword_of_bits (by simp [hs]) hc hbits hcl]
  · rw [exec_decNext hd hs, readCodeword_of_bits (by simp [hs]) hc hbits hcl]

/-- CW.LIT in AwaitFirst is the first value of an epoch (R145). -/
theorem exec_cwLit_first {s : State} (hd : s.dir = .dec) (hs : s.st = .awaitFirst) (b : Byte) :
    exec (.cwLit b) s = .next (decFirstValue [b] s) := by
  simp [exec, execCwLit, hd, hs]

theorem exec_cwEof {s : State} (hd : s.dir = .dec) (hs : s.st ≠ .halted) :
    exec .cwEof s = .next { s with st := .halted } := by
  cases h : s.st with
  | halted => exact absurd h hs
  | awaitFirst => simp [exec, execCwEof, hd, h]
  | running => simp [exec, execCwEof, hd, h]

theorem exec_cwOor {s : State} {c : Codeword} (hd : s.dir = .dec) (hc : 257 ≤ c.toNat)
    (hs : s.st = .awaitFirst ∨ (s.st = .running ∧ s.cc < c.toNat)) :
    exec (.cwOor c) s = .next (raise .codewordOutOfRange c s) := by
  rcases hs with hs | ⟨hs, hcc⟩
  · simp [exec, execCwOor, hd, hs, hc]
  · simp [exec, execCwOor, hd, hs, hc, hcc]

/-- Settles O41: the literal runs `decFirstValue_eq`, with or without the read before it. -/
theorem decFirstTakesALiteral : Obligations.DecFirstTakesALiteral := by
  refine fun s b hd hs hcc hl hm => ⟨?_, fun rest hw hbits => ?_⟩
  · rw [exec_cwLit_first hd hs, decFirstValue_eq hcc hl hm]
  · have hlt : (b.setWidth 16 : Codeword).toNat < 256 := by rw [toNat_setWidth_byte]; exact b.isLt
    have hle : 2 ^ 8 ≤ 2 ^ s.w := Nat.pow_le_pow_right (by decide) hw
    have hcl : classify s.st s.cc (b.setWidth 16) = some (.cwLit b) := by
      rw [classify_literal (by simp [hs]) s.cc hlt, setWidth_setWidth_byte]
    rw [← toNat_setWidth_byte] at hbits
    rw [(exec_read_of_bits hd (lt_of_lt_of_le hlt hle) hbits hcl).1 hs, exec_cwLit_first (s := advance s.w s) hd hs,
      decFirstValue_eq (s := advance s.w s) hcc hl hm]
    rfl

/-! Values. -/

/-- The class of a value-carrying codeword, by its number (R65). -/
def valueClass (cc : Nat) (c : Codeword) (i : Instr) : Prop :=
  (c.toNat < 256 ∧ i = .cwLit (c.setWidth 8)) ∨ (257 ≤ c.toNat ∧ c.toNat < cc ∧ i = .cwRef c) ∨
    (257 ≤ c.toNat ∧ c.toNat = cc ∧ i = .cwKwkwk c)

theorem classify_of_valueClass {cc : Nat} {c : Codeword} {i : Instr} (h : valueClass cc c i) :
    classify .running cc c = some i := by
  rcases h with ⟨hc, rfl⟩ | ⟨hc, hlt, rfl⟩ | ⟨hc, heq, rfl⟩
  · exact classify_literal (by decide) cc hc
  · exact classify_ref hc hlt
  · exact classify_kwkwk hc heq

/-- A codeword that has a value is of one of the three classes. -/
theorem exists_valueClass {s : State} {c : Codeword} {value : Str} (h : codewordValue s c value) :
    ∃ i, valueClass s.cc c i := by
  rcases h with ⟨hc, -⟩ | ⟨hc, hlt, -⟩ | ⟨hc, heq, -⟩
  · exact ⟨_, .inl ⟨hc, rfl⟩⟩
  · exact ⟨_, .inr (.inl ⟨hc, hlt, rfl⟩)⟩
  · exact ⟨_, .inr (.inr ⟨hc, heq, rfl⟩)⟩

/-- The three classes in Running continue with the codeword's value (R147). -/
theorem exec_valueClass {s : State} {c : Codeword} {p : Str} {first : Byte} {more : Str} {i : Instr}
    (hd : s.dir = .dec) (hs : s.st = .running) (hp : s.prior = some p) (hv : codewordValue s c (first :: more))
    (hi : valueClass s.cc c i) : exec i s = .next (decNextValue p first more s) := by
  have hgo : decContinue (some (first :: more)) s = .next (decNextValue p first more s) :=
    decContinue_some hp (List.cons_ne_nil first more)
  rcases hi with ⟨hc, rfl⟩ | ⟨hc, hlt, rfl⟩ | ⟨hc, heq, rfl⟩
  · obtain ⟨-, hval⟩ | ⟨h, -⟩ | ⟨h, -⟩ := hv
    · simpa [exec, execCwLit, hd, hs, hval] using hgo
    · omega
    · omega
  · obtain ⟨h, -⟩ | ⟨-, -, hval⟩ | ⟨-, h, -⟩ := hv
    · omega
    · have htab : tabLookup c s = some (first :: more) := by rw [tabLookup, if_neg (by omega), hval]
      simpa [exec, execCwRef, hd, hs, hc, hlt, htab] using hgo
    · omega
  · obtain ⟨h, -⟩ | ⟨-, h, -⟩ | ⟨-, -, q, qs, hq, hval⟩ := hv
    · omega
    · omega
    · have hone : oneAhead s = some (first :: more) := by rw [oneAhead, hq, hval]
      simpa [exec, execCwKwkwk, hd, hs, heq, show 257 ≤ s.cc by omega, hone] using hgo

/-- Settles O42: the class continues with the value, and the rest of the step is the composition of R147. -/
theorem codewordClassesInRunning : Obligations.CodewordClassesInRunning := by
  intro s c p first more i hd hs hp hv hi
  rw [exec_valueClass hd hs hp hv hi, decNextValue_eq]

/-- Settles O43: the codeword that is read is of one of the three classes, with CC as the step began. -/
theorem decNextTakesAValue : Obligations.DecNextTakesAValue := by
  intro s c p first more rest hd hs hp hv hc hcc hbits
  obtain ⟨i, hi⟩ := exists_valueClass hv
  have hcl : classify s.st s.cc c = some i := by rw [hs]; exact classify_of_valueClass hi
  have hv' : codewordValue (advance s.w s) c (first :: more) := hv
  rw [(exec_read_of_bits hd hc hbits hcl).2 hs, exec_valueClass (s := advance s.w s) hd hs hp hv' hi, decNextValue_eq]
  rfl

/-- Settles O44: the entry appended at CC is PRIOR and the value's first byte, which is PRIOR's. -/
theorem oneAheadDefinesItsOwnEntry : Obligations.OneAheadDefinesItsOwnEntry := by
  intro s c p ps hd hs hp hc heq hcc
  have hv : codewordValue s c (p :: (ps ++ [p])) := .inr (.inr ⟨hc, heq, p, ps, hp, rfl⟩)
  refine ⟨_, exec_valueClass hd hs hp hv (.inr (.inr ⟨hc, heq, rfl⟩)), ?_⟩
  rw [decNextValue_eq]
  refine ⟨by simp [decBeforePolicy], fun hrun => ?_⟩
  rcases decBeforePolicy_append_cases (p :: ps) p (ps ++ [p]) s with ⟨-, hcc', hget⟩ | ⟨hfull, -⟩
  case inr => omega
  have hentry := hget c.toNat
  rw [if_pos heq] at hentry
  rcases rpCheck_cases .dec (decBeforePolicy (p :: ps) p (ps ++ [p]) s) with ⟨-, e⟩ | ⟨-, -, e⟩ | ⟨-, -, e⟩
  · rw [e] at hrun
    cases hrun
  · rw [e]
    exact ⟨hentry, rfl, hcc'⟩
  · rw [e]
    exact ⟨hentry, rfl, hcc'⟩

/-! The frame. -/

/-- One of the three value-carrying classes that answers a next state in Running has taken a value. -/
theorem exec_value_next {s t : State} {i : Instr}
    (hi : (∃ b, i = .cwLit b) ∨ (∃ c, i = .cwRef c) ∨ (∃ c, i = .cwKwkwk c)) (hs : s.st = .running)
    (h : exec i s = .next t) : ∃ p first more, t = decNextValue p first more s := by
  have value {next : Option Str} (hx : decContinue next s = .next t) :
      ∃ p first more, t = decNextValue p first more s := by
    obtain ⟨p, first, more, -, -, e⟩ := decContinue_next hx
    exact ⟨p, first, more, e⟩
  cases hd : s.dir with
  | enc => rcases hi with ⟨b, rfl⟩ | ⟨c, rfl⟩ | ⟨c, rfl⟩ <;> simp [exec, execCwLit, execCwRef, execCwKwkwk, hd] at h
  | dec =>
    rcases hi with ⟨b, rfl⟩ | ⟨c, rfl⟩ | ⟨c, rfl⟩
    · exact value (by simpa [exec, execCwLit, hd, hs] using h)
    · simp only [exec, execCwRef, hd, hs] at h
      split at h
      · exact value h
      · cases h
    · simp only [exec, execCwKwkwk, hd, hs] at h
      split at h
      · exact value h
      · cases h

/-- What a value taken in Running leaves unchanged, and what the policy reset leaves (R147, R108). -/
theorem decNextValue_frame {s t : State} {p : Str} {first : Byte} {more : Str} (hs : s.st = .running)
    (ht : t = decNextValue p first more s) :
    t.rp = s.rp ∧ t.dir = s.dir ∧ t.mode = s.mode ∧ t.err = s.err ∧ t.errinfo = s.errinfo ∧ t.input = s.input ∧
    t.cur = s.cur ∧ t.dict = s.dict ∧ t.outbits = s.outbits ∧ t.inbits = s.inbits ∧ t.request = s.request ∧
    t.result = s.result ∧ t.freeCount = s.freeCount ∧
    (s.mode = .none → t.u = s.u ∧ t.c = s.c ∧ t.bu = s.bu ∧ t.bc = s.bc ∧ t.mon = s.mon) ∧
    ((t.tab = (tabInit s).tab ∧ s.mode ≠ .none ∧ t.st = .awaitFirst ∧ t.prior = none ∧ t.w = 9 ∧ t.l = 512 ∧
        t.cc = 257 ∧ t.u = 0 ∧ t.c = 0 ∧ t.bu = 0 ∧ t.bc = 0 ∧ t.mon = false) ∨
      (t.st = .running ∧ (∀ j, j ≠ s.cc → tabGet t j = tabGet s j) ∧
        (s.mode = .periodic → t.u = s.u ∧ t.c = s.c ∧ t.bu = s.bu ∧ t.bc = s.bc ∧ t.mon = s.mon))) := by
  obtain ⟨tab, cc, u, c, w, l, hshape, hentries, htracker, -⟩ := decNextValue_shape p first more s
  subst ht
  rw [hshape]
  rcases rpCheck_cases .dec { s with
      tab := tab, cc := cc, outb := s.outb ++ first :: more, prior := some (first :: more), u := u, c := c, w := w
      l := l } with ⟨hreset, e⟩ | ⟨-, hcapture, e⟩ | ⟨-, -, e⟩ <;> rw [e]
  · have hm : s.mode ≠ .none := fun h => mode_ne_none_of_resetsOn hreset h
    simp [rpReset_dec, restartWidth, clearTracker, wcInit, tabInit, hm]
  · have hm : s.mode = .monitored := hcapture.1
    refine ⟨rfl, rfl, rfl, rfl, rfl, rfl, rfl, rfl, rfl, rfl, rfl, rfl, rfl, ?_, .inr ⟨hs, hentries, ?_⟩⟩ <;> simp [hm]
  · refine ⟨rfl, rfl, rfl, rfl, rfl, rfl, rfl, rfl, rfl, rfl, rfl, rfl, rfl, fun hm => ?_,
      .inr ⟨hs, hentries, fun hm => ?_⟩⟩
    all_goals
      obtain ⟨hu, hc⟩ := htracker (by simp [hm])
      exact ⟨hu, hc, rfl, rfl, rfl⟩

/-- Settles O45: `decNextValue_frame`, for DEC.next after the read; its other answers write ST and the error alone. -/
theorem decValueFrame : Obligations.DecValueFrame := by
  intro s t i hi hs h
  by_cases hnext : i = .decNext
  · subst hnext
    obtain ⟨-, -, rfl | rfl | ⟨c, rfl⟩ | ⟨p, first, more, -, rfl⟩⟩ := execDecNext_next h
    · exact .inl ⟨rfl, rfl, .inl rfl⟩
    · exact .inl ⟨rfl, rfl, .inr rfl⟩
    · exact .inl ⟨rfl, rfl, .inr rfl⟩
    · exact .inr (decNextValue_frame (s := advance s.w s) hs rfl)
  · obtain ⟨p, first, more, rfl⟩ := exec_value_next (by simpa [hnext] using hi) hs h
    rw [if_neg hnext]
    exact .inr (decNextValue_frame hs rfl)

/-- Settles O46: the class of 256 halts, with or without the read before it. -/
theorem eofCodewordHalts : Obligations.EofCodewordHalts := by
  refine fun s hd hs => ⟨exec_cwEof hd hs, fun rest hw hbits => ?_⟩
  have hread := exec_read_of_bits (c := 256) hd hw hbits (classify_eof hs s.cc rfl)
  rw [exec_cwEof (s := advance s.w s) hd hs] at hread
  exact hread

/-- Settles O47: the class raises, with or without the read before it. -/
theorem outOfRangeCodewordRaises : Obligations.OutOfRangeCodewordRaises := by
  refine fun s c hd hc hs => ⟨exec_cwOor hd hc hs, fun rest hw hbits => ?_⟩
  have hread := exec_read_of_bits hd hw hbits (classify_oor hc hs)
  rw [exec_cwOor (s := advance s.w s) hd hc hs] at hread
  exact hread

/-- Settles O48: both operations read first, and the read fails. -/
theorem exhaustedCodewordRaises : Obligations.ExhaustedCodewordRaises := by
  intro s hd hshort
  have hread : readCodeword s = .next (raise .truncatedStream (BitVec.ofNat 16 s.w) s) := by
    simp [readCodeword, (bitRead_eq_none s.w s).2 hshort]
  exact ⟨fun hs => (exec_decFirst hd hs).trans hread, fun hs => (exec_decNext hd hs).trans hread⟩

end Sys2Proof.Machine
end

section
/-! PROOFS. Steps of a run, over `run_cases`: what has been written stays (spec/20_memory.md R42, R49), errors are
precise (spec/60_exceptions.md R177, R179), W between resets (spec/10_state.md R34), and ST (spec/43_encoder.md R136,
spec/44_decoder.md R156). -/

namespace Sys2Proof.Machine

/-! The streams and the control registers in the updates of one symbol. -/

@[simp] theorem encEmit_outbits (found : Str) (code : Codeword) (s : State) :
    (encEmit found code s).outbits = s.outbits ++ bitsOfNat s.w code.toNat := by
  simp [encEmit]

@[simp] theorem encEmit_outb (found : Str) (code : Codeword) (s : State) : (encEmit found code s).outb = s.outb := by
  simp [encEmit]

@[simp] theorem encEmit_dir (found : Str) (code : Codeword) (s : State) : (encEmit found code s).dir = s.dir := by
  simp [encEmit]

@[simp] theorem encEmit_input (found : Str) (code : Codeword) (s : State) :
    (encEmit found code s).input = s.input := by
  simp [encEmit]

@[simp] theorem encEmit_inbits (found : Str) (code : Codeword) (s : State) :
    (encEmit found code s).inbits = s.inbits := by
  simp [encEmit]

@[simp] theorem encEmit_err (found : Str) (code : Codeword) (s : State) : (encEmit found code s).err = s.err := by
  simp [encEmit]

@[simp] theorem encEmit_errinfo (found : Str) (code : Codeword) (s : State) :
    (encEmit found code s).errinfo = s.errinfo := by
  simp [encEmit]

@[simp] theorem encEmit_cur (found : Str) (code : Codeword) (s : State) :
    (encEmit found code s).cur = s.cur + found.length := by
  simp [encEmit]

@[simp] theorem decFirstValue_outbits (value : Str) (s : State) : (decFirstValue value s).outbits = s.outbits := by
  simp [decFirstValue]

@[simp] theorem decFirstValue_outb (value : Str) (s : State) :
    (decFirstValue value s).outb = s.outb ++ value := by
  simp [decFirstValue]

@[simp] theorem decFirstValue_dir (value : Str) (s : State) : (decFirstValue value s).dir = s.dir := by
  simp [decFirstValue]

@[simp] theorem decFirstValue_input (value : Str) (s : State) : (decFirstValue value s).input = s.input := by
  simp [decFirstValue]

@[simp] theorem decFirstValue_inbits (value : Str) (s : State) : (decFirstValue value s).inbits = s.inbits := by
  simp [decFirstValue]

@[simp] theorem decFirstValue_err (value : Str) (s : State) : (decFirstValue value s).err = s.err := by
  simp [decFirstValue]

@[simp] theorem decFirstValue_rp (value : Str) (s : State) : (decFirstValue value s).rp = s.rp := by
  simp [decFirstValue]

@[simp] theorem decFirstValue_st (value : Str) (s : State) : (decFirstValue value s).st = .running := rfl

@[simp] theorem decNextValue_outbits (prior : Str) (b : Byte) (more : Str) (s : State) :
    (decNextValue prior b more s).outbits = s.outbits := by
  simp [decNextValue]

@[simp] theorem decNextValue_outb (prior : Str) (b : Byte) (more : Str) (s : State) :
    (decNextValue prior b more s).outb = s.outb ++ b :: more := by
  simp [decNextValue]

@[simp] theorem decNextValue_dir (prior : Str) (b : Byte) (more : Str) (s : State) :
    (decNextValue prior b more s).dir = s.dir := by
  simp [decNextValue]

@[simp] theorem decNextValue_input (prior : Str) (b : Byte) (more : Str) (s : State) :
    (decNextValue prior b more s).input = s.input := by
  simp [decNextValue]

@[simp] theorem decNextValue_inbits (prior : Str) (b : Byte) (more : Str) (s : State) :
    (decNextValue prior b more s).inbits = s.inbits := by
  simp [decNextValue]

@[simp] theorem decNextValue_err (prior : Str) (b : Byte) (more : Str) (s : State) :
    (decNextValue prior b more s).err = s.err := by
  simp [decNextValue]

@[simp] theorem decNextValue_rp (prior : Str) (b : Byte) (more : Str) (s : State) :
    (decNextValue prior b more s).rp = s.rp := by
  simp [decNextValue]

/-! W and ST in the same updates: as the step began, grown by one, or restarted by a policy reset. -/

/-- ENC.step keeps ST (R136), and W but for one growth or a reset (R34). -/
theorem encEmit_width_st (found : Str) (code : Codeword) (s : State) :
    (encEmit found code s).st = s.st ∧
    ((encEmit found code s).w = s.w ∨ (encEmit found code s).w = s.w + 1 ∨
      ((encEmit found code s).w = 9 ∧ (encEmit found code s).l = 512 ∧ (encEmit found code s).cc = 257 ∧
        s.mode ≠ .none)) := by
  obtain ⟨d, cc, u, c, w, l, e, hw⟩ := encEmit_shape found code s
  rw [e]
  obtain ⟨-, ⟨hw', hst⟩ | ⟨hw', hl, hcc, hm, hst⟩⟩ := rpCheck_shape .enc { s with
    outbits := s.outbits ++ bitsOfNat s.w code.toNat, dict := d, cc := cc, u := u, c := c, w := w, l := l }
  · exact ⟨hst, hw.imp hw'.trans fun h => .inl (hw'.trans h)⟩
  · exact ⟨hst, .inr (.inr ⟨hw', hl, hcc, hm⟩)⟩

/-- The first value of an epoch keeps W but for one growth or a reset (R34). -/
theorem decFirstValue_width (value : Str) (s : State) :
    (decFirstValue value s).w = s.w ∨ (decFirstValue value s).w = s.w + 1 ∨
      ((decFirstValue value s).w = 9 ∧ (decFirstValue value s).l = 512 ∧ (decFirstValue value s).cc = 257 ∧
        s.mode ≠ .none) := by
  obtain ⟨u, c, w, l, e, hw⟩ := decFirstValue_shape value s
  rw [e]
  obtain ⟨-, ⟨hw', -⟩ | ⟨hw', hl, hcc, hm, -⟩⟩ := rpCheck_shape .dec { s with
    outb := s.outb ++ value, prior := some value, u := u, c := c, w := w, l := l }
  · exact hw.imp hw'.trans fun h => .inl (hw'.trans h)
  · exact .inr (.inr ⟨hw', hl, hcc, hm⟩)

/-- A further value keeps ST and W but for one growth, or the reset has restarted them (R34, R156). -/
theorem decNextValue_width_st (prior : Str) (b : Byte) (more : Str) (s : State) :
    ((decNextValue prior b more s).st = s.st ∧
      ((decNextValue prior b more s).w = s.w ∨ (decNextValue prior b more s).w = s.w + 1)) ∨
    ((decNextValue prior b more s).st = .awaitFirst ∧ (decNextValue prior b more s).w = 9 ∧
      (decNextValue prior b more s).l = 512 ∧ (decNextValue prior b more s).cc = 257 ∧ s.mode ≠ .none) := by
  obtain ⟨tab, cc, u, c, w, l, e, -, -, hw⟩ := decNextValue_shape prior b more s
  rw [e]
  obtain ⟨-, ⟨hw', hst⟩ | ⟨hw', hl, hcc, hm, hst⟩⟩ := rpCheck_shape .dec { s with
    tab := tab, cc := cc, outb := s.outb ++ b :: more, prior := some (b :: more), u := u, c := c, w := w, l := l }
  · exact .inl ⟨hst, hw.imp hw'.trans hw'.trans⟩
  · exact .inr ⟨hst, hw', hl, hcc, hm⟩

/-! The statements. -/

/-- Settles O53: a codeword's bits and a value's bytes are appended at the end. -/
theorem writtenOutputStays : Obligations.WrittenOutputStays := by
  intro s t hs h
  rcases run_cases hs h with ⟨-, rfl⟩ | ⟨-, -, -, -, found, code, -, -, rfl⟩ | ⟨-, -, -, -, rfl⟩ | ⟨-, -, -, rfl⟩ |
    ⟨-, -, c, -, heof | hoor | hfirst | hnext⟩
  · simp
  · simp
  · simp
  · simp
  · obtain ⟨-, rfl⟩ := heof; simp
  · obtain ⟨-, -, rfl⟩ := hoor; simp
  · obtain ⟨-, -, rfl⟩ := hfirst; simp
  · obtain ⟨-, p, b, more, -, rfl, -⟩ := hnext; simp

/-- Settles O54: of the steps of a run, those of an Encoder are STATUS, ENC.step and ENC.eof. -/
theorem encoderNeverRaises : Obligations.EncoderNeverRaises := by
  intro s t hd hs h
  rcases run_cases hs h with ⟨-, rfl⟩ | ⟨-, -, -, -, found, code, -, -, rfl⟩ | ⟨-, -, -, -, rfl⟩ | ⟨-, hdec, -⟩ |
    ⟨-, hdec, -⟩
  · simp
  · simp
  · simp
  · cases hd.symm.trans hdec
  · cases hd.symm.trans hdec

/-- Settles O55: the steps that write ERR are the failed read and the class out of range. -/
theorem errorsArePrecise : Obligations.ErrorsArePrecise := by
  intro s t hs hr he h ht
  rcases run_cases hs h with ⟨hreq, -⟩ | ⟨-, -, -, -, found, code, -, -, rfl⟩ | ⟨-, -, -, -, rfl⟩ | ⟨-, -, -, rfl⟩ |
    ⟨-, -, c, -, heof | hoor | hfirst | hnext⟩
  · exact absurd hr hreq
  · simp [he] at ht
  · simp [he] at ht
  · exact ⟨rfl, .inl ⟨rfl, rfl, rfl⟩⟩
  · obtain ⟨-, rfl⟩ := heof; simp [he] at ht
  · obtain ⟨-, -, rfl⟩ := hoor
    exact ⟨rfl, .inr ⟨rfl, rfl⟩⟩
  · obtain ⟨-, -, rfl⟩ := hfirst; simp [he] at ht
  · obtain ⟨-, p, b, more, -, rfl, -⟩ := hnext; simp [he] at ht

/-- Settles O56: only the three updates with a growth check and a policy check write W. -/
theorem widthNeverDecreases : Obligations.WidthNeverDecreases := by
  intro s t hs hr h
  rcases run_cases hs h with ⟨hreq, -⟩ | ⟨-, -, -, -, found, code, -, -, rfl⟩ | ⟨-, -, -, -, rfl⟩ | ⟨-, -, -, rfl⟩ |
    ⟨-, -, c, -, heof | hoor | hfirst | hnext⟩
  · exact absurd hr hreq
  · exact (encEmit_width_st found code s).2
  · exact .inl rfl
  · exact .inl rfl
  · obtain ⟨-, rfl⟩ := heof; exact .inl rfl
  · obtain ⟨-, -, rfl⟩ := hoor; exact .inl rfl
  · obtain ⟨-, -, rfl⟩ := hfirst
    exact decFirstValue_width [c.setWidth 8] (advance s.w s)
  · obtain ⟨-, p, b, more, -, rfl, -⟩ := hnext
    rcases decNextValue_width_st p b more (advance s.w s) with ⟨-, hw | hw⟩ | ⟨-, hw⟩
    · exact .inl hw
    · exact .inr (.inl hw)
    · exact .inr (.inr hw)

/-- Settles O57, by role: each update's ST. -/
theorem stateTransitions : Obligations.StateTransitions := by
  intro s t hs hr h
  rcases run_cases hs h with ⟨hreq, -⟩ | ⟨-, hrun, hd, -, found, code, -, -, rfl⟩ | ⟨-, hrun, hd, hc, rfl⟩ |
    ⟨-, hd, -, rfl⟩ | ⟨-, hd, c, -, heof | hoor | hfirst | hnext⟩
  · exact absurd hr hreq
  · have hst := (encEmit_width_st found code s).1
    simp [hd, hrun, hst]
  · simp [hd, hrun, hc]
  · simp [hd]
  · obtain ⟨-, rfl⟩ := heof; simp [hd]
  · obtain ⟨-, -, rfl⟩ := hoor; simp [hd]
  · obtain ⟨-, hfirst, rfl⟩ := hfirst; simp [hd]
  · obtain ⟨hrun, p, b, more, -, rfl, -⟩ := hnext
    rcases decNextValue_width_st p b more (advance s.w s) with ⟨hst, -⟩ | ⟨hst, -, -, -, hm⟩
    · simp [hd, hrun, hst]
    · have hm : s.mode ≠ .none := hm
      simp [hd, hrun, hst, hm]

end Sys2Proof.Machine
end

section
/-! PROOFS. The invariants of a run (spec/10_state.md R34 to R36): what holds between the growth check and the policy
check, that the policy check turns it into the invariants, and that each symbol brings it about. -/

namespace Sys2Proof.Machine

/-- The invariants without the canonical form of the stores, which no other part of them rests on. -/
structure State.RunInv (s : State) : Prop where
  width   : s.widthInv
  count   : s.countInv
  control : s.controlInv
  tracker : s.trackerInv
  dict    : s.dictInv
  tab     : s.tabInv

theorem State.Inv.runInv {s : State} (h : s.Inv) : s.RunInv :=
  ⟨h.width, h.count, h.control, h.tracker, h.dict, h.tab⟩

theorem State.RunInv.inv {s : State} (h : s.RunInv) (hs : s.storesWf) : s.Inv :=
  ⟨h.width, h.count, h.control, h.tracker, h.dict, h.tab, hs⟩

/-- The cursor is in no invariant but its own bound (R27). -/
theorem runInv_with_cur {s : State} (h : s.RunInv) {n : Nat} (hn : n ≤ inputLength s) :
    ({ s with cur := n } : State).RunInv := by
  obtain ⟨hfirst, hprior, -, hrp, herr⟩ := h.control
  exact ⟨h.width, h.count, ⟨hfirst, hprior, fun _ _ => hn, hrp, herr⟩, h.tracker, h.dict, h.tab⟩

/-- The read position is in no invariant but its own bound (R43). -/
theorem runInv_advance {s : State} (h : s.RunInv) {n : Nat} (hn : s.rp + n ≤ s.inbits.length) :
    (advance n s).RunInv := by
  obtain ⟨hfirst, hprior, hcur, -, herr⟩ := h.control
  exact ⟨h.width, h.count, ⟨hfirst, hprior, hcur, fun _ _ => hn, herr⟩, h.tracker, h.dict, h.tab⟩

/-! Width, count and tracker in the updates of a symbol. -/

/-- An insert and the growth check after it, on numbers: `n` is the side's lag, `cc'` the count after the insert (R34,
R35, R100, R101). -/
theorem width_count_of_growth {n w l cc cc' w' l' : Nat} (hw : 9 ≤ w ∧ w ≤ 16 ∧ l = 2 ^ w) (hn : n ≤ 1)
    (hcc : 257 ≤ cc ∧ cc ≤ l) (hlt : w < 16 → cc + n < l) (hins : (cc < l ∧ cc' = cc + 1) ∨ cc' = cc)
    (hgrow : (cc' + n = l ∧ w < 16 ∧ w' = w + 1 ∧ l' = l * 2) ∨ (¬ (cc' + n = l ∧ w < 16) ∧ w' = w ∧ l' = l)) :
    (9 ≤ w' ∧ w' ≤ 16 ∧ l' = 2 ^ w') ∧ 257 ≤ cc' ∧ cc' ≤ l' ∧ (w' < 16 → cc' + n < l') ∧
      (cc + n < l → cc' + n ≤ l') := by
  obtain ⟨h9, h16, hl⟩ := hw
  rcases hgrow with ⟨hfull, hw16, rfl, rfl⟩ | ⟨hno, rfl, rfl⟩
  · refine ⟨⟨by omega, by omega, ?_⟩, ?_⟩
    · rw [hl, Nat.pow_succ]
    · omega
  · exact ⟨⟨h9, h16, hl⟩, by omega⟩

/-- Counting keeps the tracker's invariant (R28 to R30). -/
theorem trackerInv_of_counted {s t : State} (h : s.trackerInv) (hs : s.inRun) (hmode : t.mode = s.mode)
    (hu : s.u ≤ t.u) (hc : s.c ≤ t.c) (hcount : s.mode ≠ .monitored → t.u = s.u ∧ t.c = s.c) (hbu : t.bu = s.bu)
    (hbc : t.bc = s.bc) (hmon : t.mon = s.mon) (hw : s.w = 16 → t.w = 16) : t.trackerInv := by
  obtain ⟨hzero, hoff, hon⟩ := h hs
  intro _
  rw [hmode, hbu, hbc, hmon]
  refine ⟨fun hm => ?_, hoff, fun hm => ?_⟩
  · obtain ⟨hu', hc'⟩ := hcount hm
    rw [hu', hc']
    exact hzero hm
  · obtain ⟨hw16, hbu0, hbc0, hbu', hbc'⟩ := hon hm
    exact ⟨hw hw16, hbu0, hbc0, hbu'.trans hu, hbc'.trans hc⟩

/-! The policy check. -/

/-- What holds of a running machine between the growth check and the policy check: the invariants, but at W = 16 the
store may just have become full, and in mode MONITORED the counters are positive. -/
structure State.BeforePolicy (s : State) : Prop where
  running : s.st = .running
  width   : 9 ≤ s.w ∧ s.w ≤ 16 ∧ s.l = 2 ^ s.w
  count   : 257 ≤ s.cc ∧ s.cc ≤ s.l
  notFull : s.w < 16 → s.cc + lag s.dir < s.l
  atMost  : s.mode = .periodic ∨ (s.mode = .monitored ∧ s.mon = false) → s.cc + lag s.dir ≤ s.l
  counted : s.mode = .monitored → 0 < s.u ∧ 0 < s.c
  control : s.controlInv
  tracker : s.trackerInv
  dict    : s.dictInv
  tab     : s.tabInv

/-- The policy reset leaves the start of an epoch (R108). -/
theorem rpReset_runInv {s : State} (h : s.BeforePolicy) : (rpReset s.dir s).RunInv := by
  have hrun : s.inRun := by simp [h.running]
  obtain ⟨-, -, hcur, hrp, herr⟩ := h.control
  obtain ⟨he, hi⟩ := herr hrun
  cases hd : s.dir with
  | enc =>
    have hcur := hcur hrun hd
    exact {
      width := fun _ => by simp
      count := fun _ => by simp [rpReset_enc, restartWidth, dictInit, hd, lag]
      control := by
        simpa [State.controlInv, rpReset_enc, restartWidth, dictInit, hd, h.running, he, hi, inputLength] using hcur
      tracker := fun _ => by simp
      dict := fun _ _ => dictInit_contents s
      tab := fun _ hdec => by simp [rpReset_enc, restartWidth, dictInit, hd] at hdec }
  | dec =>
    have hrp := hrp hrun hd
    exact {
      width := fun _ => by simp
      count := fun _ => by simp [rpReset_dec, restartWidth, tabInit, hd, lag]
      control := by simpa [State.controlInv, rpReset_dec, restartWidth, tabInit, hd, he, hi] using hrp
      tracker := fun _ => by simp
      dict := fun _ henc => by simp [rpReset_dec, restartWidth, tabInit, hd] at henc
      tab := fun _ _ => tabInit_contents s }

/-- The capture sets the baseline where the store is full at W = 16 (R111, R115). -/
theorem rtCapture_runInv {s : State} (h : s.BeforePolicy) (hc : CapturesOn s.dir s) : (rtCapture s).RunInv := by
  obtain ⟨hm, -, hfull⟩ := hc
  obtain ⟨-, hw⟩ := (fullAtMaxWidth_iff_lag s.dir s).1 hfull
  obtain ⟨hu, hc⟩ := h.counted hm
  exact {
    width := fun _ => h.width
    count := fun _ => ⟨h.count.1, h.count.2, by simp [hw, hm]⟩
    control := by simpa [State.controlInv, h.running, rtCapture, inputLength, tabGet] using h.control
    tracker := fun _ => by simp [hm, hw, hu, hc]
    dict := h.dict
    tab := h.tab }

/-- Where the check does nothing the store is not full, or is allowed to be (R106 to R111). -/
theorem runInv_of_quiet {s : State} (h : s.BeforePolicy) (hr : ¬ ResetsOn s.dir s) (hc : ¬ CapturesOn s.dir s) :
    s.RunInv := by
  refine ⟨fun _ => h.width, fun _ => ⟨h.count.1, h.count.2, fun hmust => ?_⟩, h.control, h.tracker, h.dict, h.tab⟩
  by_cases hw : s.w < 16
  · exact h.notFull hw
  have hw16 : s.w = 16 := Nat.le_antisymm h.width.2.1 (Nat.not_lt.1 hw)
  have hmust : s.mode = .periodic ∨ (s.mode = .monitored ∧ s.mon = false) := hmust.resolve_left hw
  refine lt_of_le_of_ne (h.atMost hmust) fun hfull => ?_
  have htest : fullAtMaxWidth s.dir s = true := (fullAtMaxWidth_iff_lag s.dir s).2 ⟨hfull, hw16⟩
  rcases hmust with hm | ⟨hm, hmon⟩
  · exact hr (.inl ⟨hm, htest⟩)
  · exact hc ⟨hm, hmon, htest⟩

theorem rpCheck_runInv {s : State} (h : s.BeforePolicy) : (rpCheck s.dir s).RunInv := by
  rcases rpCheck_cases s.dir s with ⟨-, e⟩ | ⟨-, hc, e⟩ | ⟨hr, hc, e⟩ <;> rw [e]
  · exact rpReset_runInv h
  · exact rtCapture_runInv h hc
  · exact runInv_of_quiet h hr hc

/-! The Encoder's symbol. -/

/-- Under the invariants every single byte is a key, so the longest match is a key, of at least one byte and within the
input (R36, R82). -/
theorem longestPrefix_of_runInv {s : State} (h : s.RunInv) (hs : s.st = .running) (hd : s.dir = .enc) {found : Str}
    (hf : longestPrefix s.cur s = some found) :
    (∃ code, dictGet s found = some code) ∧ 1 ≤ found.length ∧ s.cur + found.length ≤ s.input.length ∧
      found = (s.input.drop s.cur).take found.length := by
  obtain ⟨hbytes, -⟩ := h.dict (by simp [hs]) hd
  have hkey := longestPrefix_isKey (fun b => by simp [hbytes b]) hf
  rcases longestPrefix_cases s.cur s with ⟨-, hnone⟩ | ⟨-, t, h1, ht, hsome, hl⟩
  · rw [hnone] at hf
    cases hf
  · obtain rfl : (s.input.drop s.cur).take t = found := Option.some.inj (hsome.symm.trans hf)
    exact ⟨Option.isSome_iff_exists.1 hkey, by omega, by omega, by rw [hl]⟩

/-- The match extended by the next byte is no key yet (R82, R128). -/
theorem dictGet_longestPrefix_next {s : State} (h : s.RunInv) (hs : s.st = .running) (hd : s.dir = .enc) {found : Str}
    (hf : longestPrefix s.cur s = some found) {b : Byte} (hb : s.input[s.cur + found.length]? = some b) :
    dictGet s (found ++ [b]) = none := by
  obtain ⟨-, h1, -, htake⟩ := longestPrefix_of_runInv h hs hd hf
  obtain ⟨hlt, -⟩ := List.getElem?_eq_some_iff.1 hb
  have hstop := longestPrefix_stops (t := found.length) (htake ▸ hf) h1 hlt
  rwa [List.take_add_one, ← htake, List.getElem?_drop, hb] at hstop

/-- A codeword number below 2^16 is itself as a codeword. -/
theorem toNat_ofNat_codeword {n : Nat} (h : n < 65536) : (BitVec.ofNat 16 n).toNat = n := by
  simpa using h

/-- The insert of the extended match keeps DICT's invariant (R36, R84). -/
theorem dictInv_of_insert {s t : State} (h : s.dictInv) (hs : s.inRun) (hd : s.dir = .enc) (h257 : 257 ≤ s.cc)
    (h16 : s.cc < 65536) {found : Str} {code : Codeword} {b : Byte} (hfound : found ≠ [])
    (hc : dictGet s found = some code) (hnew : dictGet s (found ++ [b]) = none) (hcc : t.cc = s.cc + 1)
    (hget : ∀ k, dictGet t k = if k = found ++ [b] then some (BitVec.ofNat 16 s.cc) else dictGet s k) :
    t.dictInv := by
  obtain ⟨hbytes, hrange, hall, hinj, hclosed⟩ := h hs hd
  have hn := toNat_ofNat_codeword h16
  have hold : ∀ k c, dictGet s k = some c → dictGet t k = some c := by
    intro k c hk
    rw [hget, if_neg, hk]
    rintro rfl
    cases hnew.symm.trans hk
  have hcase : ∀ k c, dictGet t k = some c →
      (k = found ++ [b] ∧ c = BitVec.ofNat 16 s.cc) ∨ dictGet s k = some c := by
    intro k c hk
    rw [hget] at hk
    split at hk
    case isTrue e => exact .inl ⟨e, (Option.some.inj hk).symm⟩
    case isFalse => exact .inr hk
  have hlt : ∀ k c, dictGet s k = some c → c.toNat < s.cc := by
    intro k c hk
    rcases hrange k c hk with h1 | ⟨-, -, hlt⟩
    · obtain ⟨b', rfl⟩ := List.length_eq_one_iff.1 h1
      obtain rfl := Option.some.inj ((hbytes b').symm.trans hk)
      have := b'.isLt
      rw [toNat_setWidth_byte]
      omega
    · exact hlt
  intro _ _
  refine ⟨fun b' => hold _ _ (hbytes b'), fun k c hk => ?_, fun i h1 h2 => ?_, fun k k' c hk hk' => ?_,
    fun k b' c hne hk => ?_⟩
  · rcases hcase k c hk with ⟨rfl, rfl⟩ | hk
    · have := List.length_pos_iff.2 hfound
      exact .inr ⟨by simp; omega, by omega, by omega⟩
    · exact (hrange k c hk).imp_right fun ⟨hl, h1, h2⟩ => ⟨hl, h1, by omega⟩
  · by_cases hi : i = s.cc
    · exact ⟨found ++ [b], by rw [hget, if_pos rfl, hi]⟩
    · obtain ⟨k, hk⟩ := hall i h1 (by omega)
      exact ⟨k, hold k _ hk⟩
  · rcases hcase k c hk with ⟨rfl, rfl⟩ | hk <;> rcases hcase k' _ hk' with ⟨rfl, e⟩ | hk'
    · rfl
    · have := hlt _ _ hk'
      omega
    · have := hlt _ _ hk
      rw [e] at this
      omega
    · exact hinj k k' c hk hk'
  · rcases hcase _ c hk with ⟨e, -⟩ | hk
    · obtain ⟨rfl, -⟩ := List.append_inj' e rfl
      exact ⟨code, hold _ _ hc⟩
    · obtain ⟨c', hc'⟩ := hclosed k b' c hne hk
      exact ⟨c', hold k c' hc'⟩

/-- Under the invariants L is at most 2^16. -/
theorem l_le_of_width {w l : Nat} (h : 9 ≤ w ∧ w ≤ 16 ∧ l = 2 ^ w) : l ≤ 65536 := by
  obtain ⟨-, h16, rfl⟩ := h
  exact Nat.pow_le_pow_right (by decide) h16

/-- ENC.step up to its policy check (R128). -/
theorem encBeforePolicy_beforePolicy {s : State} (h : s.RunInv) (hs : s.st = .running) (hd : s.dir = .enc)
    {found : Str} {code : Codeword} (hf : longestPrefix s.cur s = some found) (hc : dictGet s found = some code) :
    (encBeforePolicy found code s).BeforePolicy := by
  have hrun : s.inRun := by simp [hs]
  have hwidth := h.width hrun
  obtain ⟨h257, hle, hmust⟩ := h.count hrun
  obtain ⟨-, h1, -, -⟩ := longestPrefix_of_runInv h hs hd hf
  have hfound : found ≠ [] := List.length_pos_iff.1 h1
  have hlag : lag s.dir = 0 := by rw [hd]; rfl
  have hinsert := encBeforePolicy_insert_cases found code s
  obtain ⟨hw', h257', hle', hlt', hle''⟩ := width_count_of_growth (n := 0) hwidth (by decide) ⟨h257, hle⟩
    (fun hw => hlag ▸ hmust (.inl hw))
    (hinsert.imp (fun ⟨_, _, hcc, e, _⟩ => ⟨hcc, e⟩) fun ⟨_, e, _⟩ => e) (encBeforePolicy_growth_cases found code s)
  have hlag' : lag (encBeforePolicy found code s).dir = 0 := hlag
  exact {
    running := hs
    width := hw'
    count := ⟨h257', hle'⟩
    notFull := by rwa [hlag']
    atMost := fun hm => by rw [hlag']; exact hle'' (hlag ▸ hmust (.inr hm))
    counted := fun hm => by
      have hm : s.mode = .monitored := hm
      simp only [encBeforePolicy, if_pos hm]
      omega
    control := by
      obtain ⟨-, -, hcur, -, herr⟩ := h.control
      have hcur := hcur hrun hd
      have herr := herr hrun
      refine ⟨fun hst => ?_, fun _ hdec => ?_, fun _ _ => hcur, fun _ hdec => ?_, fun _ => herr⟩
      · cases hs.symm.trans hst
      · cases hd.symm.trans hdec
      · cases hd.symm.trans hdec
    tracker := by
      refine trackerInv_of_counted h.tracker hrun rfl ?_ ?_ (fun hm => ⟨if_neg hm, if_neg hm⟩) rfl rfl rfl fun hw => ?_
      · simp only [encBeforePolicy]; split <;> omega
      · simp only [encBeforePolicy]; split <;> omega
      · rcases encBeforePolicy_growth_cases found code s with ⟨-, hw16, -⟩ | ⟨-, e, -⟩
        · omega
        · exact e.trans hw
    dict := by
      rcases hinsert with ⟨b, hb, hcc, hcc', hget⟩ | ⟨-, hcc', hget⟩
      · have h16 : s.cc < 65536 := lt_of_lt_of_le hcc (l_le_of_width hwidth)
        exact dictInv_of_insert h.dict hrun hd h257 h16 hfound hc (dictGet_longestPrefix_next h hs hd hf hb) hcc' hget
      · have hdict := h.dict hrun hd
        intro _ _
        simp only [hget, hcc']
        exact hdict
    tab := fun _ hdec => by cases hd.symm.trans hdec }

/-- ENC.step keeps the invariants (R128). -/
theorem encEmit_runInv {s : State} (h : s.RunInv) (hs : s.st = .running) (hd : s.dir = .enc) {found : Str}
    {code : Codeword} (hf : longestPrefix s.cur s = some found) (hc : dictGet s found = some code) :
    (encEmit found code s).RunInv := by
  have hcheck := rpCheck_runInv (encBeforePolicy_beforePolicy h hs hd hf hc)
  obtain ⟨-, -, hend, -⟩ := longestPrefix_of_runInv h hs hd hf
  have hdir : (encBeforePolicy found code s).dir = .enc := hd
  rw [hdir] at hcheck
  rw [encEmit_eq]
  refine runInv_with_cur hcheck ?_
  simpa [inputLength, encBeforePolicy] using hend

/-! The Decoder's symbols. -/

/-- The append of PRIOR and a byte keeps TAB's invariant, PRIOR being a value of TAB (R36, R90). -/
theorem tabInv_of_append {s t : State} (h : s.tabInv) (hs : s.inRun) (hd : s.dir = .dec) (h257 : 257 ≤ s.cc)
    {p : Str} {first : Byte} {i : Nat} (hne : p ≠ []) (hp : tabGet s i = some p) (hcc : t.cc = s.cc + 1)
    (hget : ∀ j, tabGet t j = if j = s.cc then some (p ++ [first]) else tabGet s j) : t.tabInv := by
  obtain ⟨hrange, hbytes, hlong, hclosed⟩ := h hs hd
  have hold : ∀ j v, tabGet s j = some v → tabGet t j = some v := by
    intro j v hj
    rw [hget, if_neg, hj]
    rintro rfl
    have := (hrange s.cc).1 ⟨v, hj⟩
    omega
  have hcase : ∀ j v, tabGet t j = some v → (j = s.cc ∧ v = p ++ [first]) ∨ tabGet s j = some v := by
    intro j v hj
    rw [hget] at hj
    split at hj
    case isTrue e => exact .inl ⟨e, (Option.some.inj hj).symm⟩
    case isFalse => exact .inr hj
  intro _ _
  refine ⟨fun j => ⟨fun ⟨v, hj⟩ => ?_, fun hj => ?_⟩, fun b => hold _ _ (hbytes b), fun j v h1 hj => ?_,
    fun j v b hv hj => ?_⟩
  · rcases hcase j v hj with ⟨rfl, -⟩ | hj
    · omega
    · have := (hrange j).1 ⟨v, hj⟩
      omega
  · by_cases he : j = s.cc
    · exact ⟨p ++ [first], by rw [hget, if_pos he]⟩
    · obtain ⟨v, hv⟩ := (hrange j).2 (by omega)
      exact ⟨v, hold j v hv⟩
  · rcases hcase j v hj with ⟨-, rfl⟩ | hj
    · have := List.length_pos_iff.2 hne
      simp
      omega
    · exact hlong j v h1 hj
  · rcases hcase j _ hj with ⟨-, e⟩ | hj
    · obtain ⟨rfl, -⟩ := List.append_inj' e rfl
      exact ⟨i, hold i v hp⟩
    · obtain ⟨j', hj'⟩ := hclosed j v b hv hj
      exact ⟨j', hold j' v hj'⟩

/-- The value of an accepted codeword is in TAB after the append: as a byte, as the entry it refers to, or, one ahead,
as the entry just appended, for which TAB has room (R147, R148). -/
theorem exists_tabGet_value {s : State} (h : s.RunInv) (hs : s.st = .running) (hd : s.dir = .dec) {c : Codeword}
    {p : Str} {first : Byte} {more : Str} (hp : s.prior = some p) (hv : codewordValue s c (first :: more)) :
    ∃ i, tabGet (decBeforePolicy p first more s) i = some (first :: more) := by
  have hrun : s.inRun := by simp [hs]
  obtain ⟨h257, -, hmust⟩ := h.count hrun
  obtain ⟨-, hbytes, -⟩ := h.tab hrun hd
  have hkept : ∀ i v, i ≠ s.cc → tabGet s i = some v → tabGet (decBeforePolicy p first more s) i = some v := by
    intro i v hi hget
    rcases decBeforePolicy_append_cases p first more s with ⟨-, -, e⟩ | ⟨-, -, e⟩
    · rw [e, if_neg hi, hget]
    · rw [e, hget]
  rcases hv with ⟨hc, hval⟩ | ⟨-, hlt, hval⟩ | ⟨-, heq, q, qs, hq, hval⟩
  · have hb := (c.setWidth 8).isLt
    exact ⟨_, hval ▸ hkept _ _ (by omega) (hbytes (c.setWidth 8))⟩
  · exact ⟨_, hkept _ _ (by omega) hval⟩
  · obtain rfl := Option.some.inj (hp.symm.trans hq)
    have hroom : s.cc < s.l := by
      by_cases hw : s.w < 16
      · have := hmust (.inl hw)
        omega
      · obtain ⟨-, h16, hl⟩ := h.width hrun
        have hl : s.l = 65536 := by norm_num [hl, Nat.le_antisymm h16 (Nat.not_lt.1 hw)]
        have := c.isLt
        omega
    rcases decBeforePolicy_append_cases (q :: qs) first more s with ⟨-, -, e⟩ | ⟨hfull, -⟩
    · refine ⟨s.cc, ?_⟩
      obtain rfl : first = q := (List.cons.inj hval).1
      rw [e, if_pos rfl, hval]
    · omega

/-- DEC.next up to its policy check (R147). -/
theorem decBeforePolicy_beforePolicy {s : State} (h : s.RunInv) (hs : s.st = .running) (hd : s.dir = .dec)
    {c : Codeword} {p : Str} {first : Byte} {more : Str} (hp : s.prior = some p)
    (hv : codewordValue s c (first :: more)) : (decBeforePolicy p first more s).BeforePolicy := by
  have hrun : s.inRun := by simp [hs]
  have hwidth := h.width hrun
  obtain ⟨h257, hle, hmust⟩ := h.count hrun
  obtain ⟨-, hprior, -, hrp, herr⟩ := h.control
  obtain ⟨p', i, hp', hne, hi⟩ := hprior hs hd
  obtain rfl : p' = p := Option.some.inj (hp'.symm.trans hp)
  have hlag : lag s.dir = 1 := by rw [hd]; rfl
  have happend := decBeforePolicy_append_cases p' first more s
  obtain ⟨hw', h257', hle', hlt', hle''⟩ := width_count_of_growth (n := 1) hwidth (by decide) ⟨h257, hle⟩
    (fun hw => hlag ▸ hmust (.inl hw))
    (happend.imp (fun ⟨hcc, e, _⟩ => ⟨hcc, e⟩) fun ⟨_, e, _⟩ => e) (decBeforePolicy_growth_cases p' first more s)
  have hlag' : lag (decBeforePolicy p' first more s).dir = 1 := hlag
  exact {
    running := hs
    width := hw'
    count := ⟨h257', hle'⟩
    notFull := by rwa [hlag']
    atMost := fun hm => by rw [hlag']; exact hle'' (hlag ▸ hmust (.inr hm))
    counted := fun hm => by
      have hm : s.mode = .monitored := hm
      simp only [decBeforePolicy, if_pos hm]
      omega
    control := by
      obtain ⟨j, hj⟩ := exists_tabGet_value h hs hd hp hv
      refine ⟨fun hst => ?_, fun _ _ => ⟨first :: more, j, rfl, by simp, hj⟩, fun _ henc => ?_,
        fun _ _ => hrp hrun hd, fun _ => herr hrun⟩
      · cases hs.symm.trans hst
      · cases hd.symm.trans henc
    tracker := by
      refine trackerInv_of_counted h.tracker hrun rfl ?_ ?_ (fun hm => ⟨if_neg hm, if_neg hm⟩) rfl rfl rfl fun hw => ?_
      · simp only [decBeforePolicy]; split <;> omega
      · simp only [decBeforePolicy]; split <;> omega
      · rcases decBeforePolicy_growth_cases p' first more s with ⟨-, hw16, -⟩ | ⟨-, e, -⟩
        · omega
        · exact e.trans hw
    dict := fun _ henc => by cases hd.symm.trans henc
    tab := by
      rcases happend with ⟨-, hcc', hget⟩ | ⟨-, hcc', hget⟩
      · exact tabInv_of_append h.tab hrun hd h257 hne hi hcc' hget
      · have htab := h.tab hrun hd
        intro _ _
        simp only [hget, hcc']
        exact htab }

/-- A further value keeps the invariants (R147). -/
theorem decNextValue_runInv {s : State} (h : s.RunInv) (hs : s.st = .running) (hd : s.dir = .dec) {c : Codeword}
    {p : Str} {first : Byte} {more : Str} (hp : s.prior = some p) (hv : codewordValue s c (first :: more)) :
    (decNextValue p first more s).RunInv := by
  have hcheck := rpCheck_runInv (decBeforePolicy_beforePolicy h hs hd hp hv)
  have hdir : (decBeforePolicy p first more s).dir = .dec := hd
  rw [hdir] at hcheck
  rwa [decNextValue_eq]

/-- What the invariants say of AwaitFirst (R20, R40). -/
theorem awaitFirst_of_runInv {s : State} (h : s.RunInv) (hs : s.st = .awaitFirst) :
    s.dir = .dec ∧ s.w = 9 ∧ s.l = 512 ∧ s.cc = 257 ∧ s.mon = false := by
  obtain ⟨hfirst, -⟩ := h.control
  obtain ⟨hd, hw, hcc, -, -, -, -, -, hmon⟩ := hfirst hs
  obtain ⟨-, -, hl⟩ := h.width (by simp [hs])
  exact ⟨hd, hw, by norm_num [hl, hw], hcc, hmon⟩

/-- The first value of an epoch keeps the invariants (R145). -/
theorem decFirstValue_runInv {s : State} (h : s.RunInv) (hs : s.st = .awaitFirst) (b : Byte) :
    (decFirstValue [b] s).RunInv := by
  have hrun : s.inRun := by simp [hs]
  obtain ⟨hd, hw, hl, hcc, hmon⟩ := awaitFirst_of_runInv h hs
  obtain ⟨-, -, -, hrp, herr⟩ := h.control
  obtain ⟨-, hbytes, -⟩ := h.tab hrun hd
  rw [decFirstValue_eq hcc hl hmon]
  exact {
    width := fun _ => h.width hrun
    count := fun _ => by simp [hcc, hl, hd, lag]
    control := by
      refine ⟨fun hst => ?_, fun _ _ => ⟨[b], b.toNat, rfl, by simp, hbytes b⟩, fun _ henc => ?_,
        fun _ _ => hrp hrun hd, fun _ => herr hrun⟩
      · cases hst
      · cases hd.symm.trans henc
    tracker := by
      refine trackerInv_of_counted h.tracker hrun rfl ?_ ?_ (fun hm => ⟨if_neg hm, if_neg hm⟩) rfl rfl rfl id
      · dsimp only; split <;> omega
      · dsimp only; split <;> omega
    dict := fun _ henc => by cases hd.symm.trans henc
    tab := fun _ _ => h.tab hrun hd }

end Sys2Proof.Machine
end

section
/-! PROOFS. Every step keeps the invariants (spec/10_state.md R34 to R36): the canonical form of the stores in every
update, the steps of a halted machine, the steps of a run; and that a run goes on and makes progress
(spec/43_encoder.md R133, spec/44_decoder.md R153). -/

namespace Sys2Proof.Machine

/-! The canonical form of the stores. -/

theorem rpCheck_storesWf (d : Dir) {s : State} (h : s.storesWf) : (rpCheck d s).storesWf := by
  rcases rpCheck_cases d s with ⟨-, e⟩ | ⟨-, -, e⟩ | ⟨-, -, e⟩ <;> rw [e]
  · cases d with
    | enc => exact ⟨dictInit_wf s, h.2⟩
    | dec => exact ⟨h.1, tabInit_wf s⟩
  · exact h
  · exact h

theorem postStep_storesWf (d : Dir) {s : State} (h : s.storesWf) : (postStep d s).storesWf :=
  rpCheck_storesWf d (by simpa [State.storesWf] using h)

theorem encEmit_storesWf (found : Str) (code : Codeword) {s : State} (h : s.storesWf) :
    (encEmit found code s).storesWf := by
  have hcounted : (rtUpdate found.length (bitWrite code s.w s)).storesWf := by simpa [State.storesWf] using h
  refine postStep_storesWf .enc (s := encInsert found (rtUpdate found.length (bitWrite code s.w s))) ?_
  rcases encInsert_cases found (rtUpdate found.length (bitWrite code s.w s)) with ⟨b, -, -, e⟩ | ⟨-, e⟩ <;> rw [e]
  · exact ⟨dictInsert_wf found b hcounted.1, hcounted.2⟩
  · exact hcounted

theorem decFirstValue_storesWf (value : Str) {s : State} (h : s.storesWf) : (decFirstValue value s).storesWf :=
  postStep_storesWf .dec (by simpa [State.storesWf] using h)

theorem decNextValue_storesWf (p : Str) (b : Byte) (more : Str) {s : State} (h : s.storesWf) :
    (decNextValue p b more s).storesWf := by
  have happend : (decAppend p b s).storesWf := by
    rcases decAppend_cases p b s with ⟨-, e⟩ | ⟨-, e⟩ <;> rw [e]
    · exact ⟨h.1, tabAppend_wf _ h.2⟩
    · exact h
  exact postStep_storesWf .dec (by simpa [State.storesWf] using happend)

/-! The starts. -/

/-- The CMD words of START(0, mode) and START(1, -) (R70, R166, R167). -/
theorem exec_compressCmd (m : Mode) (s : State) : exec (decodeCmd (0#1 ++ m.code)) s = execEncStart m s := by
  cases m <;> rfl

theorem decodeCmd_expandCmd (x : BitVec 2) : decodeCmd (1#1 ++ x) = .startExpand x := by
  revert x; decide

/-- Every CMD word starts a compress run, starts an expand run, or is the reserved one (R70). -/
theorem decodeCmd_cases (cmd : BitVec 3) :
    (∃ m : Mode, cmd = 0#1 ++ m.code) ∨ (∃ x : BitVec 2, cmd = 1#1 ++ x) ∨ decodeCmd cmd = .startReserved := by
  by_cases hx : cmd.getLsbD 2 = true
  · exact .inr (.inl ⟨cmd.setWidth 2, by revert cmd; decide⟩)
  · have hcmd : cmd = 0#3 ∨ cmd = 1#3 ∨ cmd = 2#3 ∨ cmd = 3#3 := by revert cmd; decide
    rcases hcmd with rfl | rfl | rfl | rfl
    · exact .inl ⟨.none, rfl⟩
    · exact .inl ⟨.periodic, rfl⟩
    · exact .inl ⟨.monitored, rfl⟩
    · exact .inr (.inr rfl)

/-- START(0, mode) taken by a halted machine (R126, R166). -/
theorem step_compress {s : State} {m : Mode} (hs : s.st = .halted)
    (hr : s.request = some (.start (0#1 ++ m.code))) : step s = .next (encLoad m { s with request := none }) := by
  rw [step_of_request hr, decodeRequest, exec_compressCmd]
  exact execEncStart_of_halted m hs

/-- START(1, -) taken by a halted machine (R141, R167). -/
theorem step_expand {s : State} {x : BitVec 2} (hs : s.st = .halted) (hr : s.request = some (.start (1#1 ++ x))) :
    step s = .next (decBegin { s with request := none }) := by
  rw [step_of_request hr, decodeRequest, decodeCmd_expandCmd]
  exact execDecStart_of_halted hs

/-- A halted machine takes STATUS or a start, and nothing else (R10, R168, R169). -/
theorem halted_cases {s t : State} (hs : s.st = .halted) (h : step s = .next t) :
    t = answer (.status s.st.code s.err.code s.errinfo) { s with request := none } ∨
    (∃ m, t = encLoad m { s with request := none }) ∨ t = decBegin { s with request := none } := by
  cases hr : s.request with
  | none =>
    rw [step_of_halted hr hs] at h
    cases h
  | some r =>
    cases r with
    | status =>
      rw [step_of_request hr] at h
      exact .inl (by simpa [decodeRequest, exec, execStatus] using h.symm)
    | start cmd =>
      rcases decodeCmd_cases cmd with ⟨m, rfl⟩ | ⟨x, rfl⟩ | hres
      · rw [step_compress hs hr] at h
        exact .inr (.inl ⟨m, by simpa using h.symm⟩)
      · rw [step_expand hs hr] at h
        exact .inr (.inr (by simpa using h.symm))
      · rw [step_of_request hr, decodeRequest, hres] at h
        cases h

/-- A read that succeeds finds its bits (R43). -/
theorem rp_add_le_of_bitRead {n : Nat} {s : State} {r : Codeword × State} (hrp : s.rp ≤ s.inbits.length)
    (h : bitRead n s = some r) : s.rp + n ≤ s.inbits.length := by
  have hlen : ¬ (s.inbits.drop s.rp).length < n := by
    rw [← bitRead_eq_none, h]
    simp
  rw [List.length_drop] at hlen
  omega

/-- DEC.start leaves a halted machine, or a Decoder at the start of its first epoch (R141, R191). -/
theorem decBegin_inv {s : State} (h : s.storesWf) : (decBegin s).Inv := by
  have hprep : (decPrepare s).storesWf := h
  unfold decBegin
  rcases readTag_cases (decPrepare s) with ⟨m, hread, e⟩ | ⟨tag, -, -, e⟩ | ⟨-, e⟩ <;> rw [e]
  · have hlen : (decPrepare s).rp + 8 ≤ (decPrepare s).inbits.length := rp_add_le_of_bitRead (Nat.zero_le _) hread
    exact decLoad_inv _ rfl rfl rfl hlen hprep
  · exact inv_of_halted rfl ⟨hprep.1, unspecifyStart_wf _⟩
  · exact inv_of_halted rfl ⟨hprep.1, unspecifyStart_wf _⟩

/-- Every step of a halted machine keeps the invariants. -/
theorem step_inv_of_halted {s t : State} (hi : s.Inv) (hs : s.st = .halted) (h : step s = .next t) : t.Inv := by
  rcases halted_cases hs h with rfl | ⟨m, rfl⟩ | rfl
  · exact inv_of_halted hs hi.stores
  · exact encLoad_inv _ m hi.stores
  · exact decBegin_inv hi.stores

/-! The steps of a run. -/

theorem runInv_of_halted {s : State} (h : s.st = .halted) : s.RunInv where
  width := fun hr => absurd h hr
  count := fun hr => absurd h hr
  control := by simp [State.controlInv, State.inRun, h]
  tracker := fun hr => absurd h hr
  dict := fun hr => absurd h hr
  tab := fun hr => absurd h hr

/-- STATUS touches no register an invariant speaks of (R168). -/
theorem runInv_of_status {s : State} (h : s.RunInv) (r : Result) :
    ({ s with request := none, result := r } : State).RunInv :=
  ⟨h.width, h.count, h.control, h.tracker, h.dict, h.tab⟩

/-- Every step of a run keeps the invariants, the canonical form of the stores apart. -/
theorem step_runInv_of_run {s t : State} (hi : s.RunInv) (hs : s.st ≠ .halted) (h : step s = .next t) : t.RunInv := by
  rcases run_cases hs h with ⟨-, rfl⟩ | ⟨-, hrun, hd, -, found, code, hf, hc, rfl⟩ | ⟨-, -, -, -, rfl⟩ |
    ⟨-, -, -, rfl⟩ | ⟨-, hd, c, hread, hcase⟩
  · exact runInv_of_status hi _
  · exact encEmit_runInv hi hrun hd hf hc
  · exact runInv_of_halted rfl
  · exact runInv_of_halted rfl
  · obtain ⟨-, -, -, hrp, -⟩ := hi.control
    have hadv := runInv_advance hi (rp_add_le_of_bitRead (hrp hs hd) hread)
    rcases hcase with ⟨-, rfl⟩ | ⟨-, -, rfl⟩ | ⟨-, hfirst, rfl⟩ | ⟨hrun, p, b, more, hp, rfl, hval⟩
    · exact runInv_of_halted rfl
    · exact runInv_of_halted rfl
    · exact decFirstValue_runInv hadv hfirst _
    · refine decNextValue_runInv hadv (c := c) hrun hd hp ?_
      rcases hval with hlit | href | ⟨h1, h2, q, qs, rfl, hval⟩
      · exact .inl hlit
      · exact .inr (.inl href)
      · exact .inr (.inr ⟨h1, h2, q, qs, hp, hval⟩)

/-- Every step of a run keeps the canonical form of the stores. -/
theorem step_storesWf_of_run {s t : State} (hi : s.storesWf) (hs : s.st ≠ .halted) (h : step s = .next t) :
    t.storesWf := by
  rcases run_cases hs h with ⟨-, rfl⟩ | ⟨-, -, -, -, found, code, -, -, rfl⟩ | ⟨-, -, -, -, rfl⟩ | ⟨-, -, -, rfl⟩ |
    ⟨-, -, c, -, heof | hoor | hfirst | hnext⟩
  · exact hi
  · exact encEmit_storesWf found code hi
  · exact hi
  · exact hi
  · obtain ⟨-, rfl⟩ := heof; exact hi
  · obtain ⟨-, -, rfl⟩ := hoor; exact hi
  · obtain ⟨-, -, rfl⟩ := hfirst; exact decFirstValue_storesWf _ hi
  · obtain ⟨-, p, b, more, -, rfl, -⟩ := hnext; exact decNextValue_storesWf p b more hi

/-- Settles O49: the power-on state is halted and its stores are empty. -/
theorem powerOnMeetsTheInvariants : Obligations.PowerOnMeetsTheInvariants :=
  inv_of_halted rfl ⟨List.Pairwise.nil, List.Pairwise.nil⟩

/-- Settles O50, by whether a run is in progress. -/
theorem stepKeepsTheInvariants : Obligations.StepKeepsTheInvariants := by
  intro s t hi h
  by_cases hs : s.st = .halted
  · exact step_inv_of_halted hi hs h
  · exact (step_runInv_of_run hi.runInv hs h).inv (step_storesWf_of_run hi.stores hs h)

/-! A run goes on. -/

/-- Under the invariants every codeword up to CC, EOF apart, has a value for a running Decoder (R36, R147). -/
theorem exists_codewordValue {s : State} (h : s.RunInv) (hs : s.st = .running) (hd : s.dir = .dec) {c : Codeword}
    (hne : c.toNat ≠ 256) (hle : c.toNat ≤ s.cc) : ∃ first more, codewordValue s c (first :: more) := by
  have hrun : s.inRun := by simp [hs]
  obtain ⟨-, hprior, -⟩ := h.control
  obtain ⟨p, -, hp, hpne, -⟩ := hprior hs hd
  obtain ⟨hrange, -, hlong, -⟩ := h.tab hrun hd
  by_cases hlit : c.toNat < 256
  · exact ⟨_, _, .inl ⟨hlit, rfl⟩⟩
  by_cases heq : c.toNat = s.cc
  · obtain ⟨q, qs, rfl⟩ := List.exists_cons_of_ne_nil hpne
    exact ⟨q, qs ++ [q], .inr (.inr ⟨by omega, heq, q, qs, hp, rfl⟩)⟩
  · obtain ⟨v, hv⟩ := (hrange c.toNat).2 (.inr ⟨by omega, by omega⟩)
    have hl := hlong c.toNat v (by omega) hv
    obtain ⟨first, more, rfl⟩ := List.exists_cons_of_length_pos (show 0 < v.length by omega)
    exact ⟨first, more, .inr (.inl ⟨by omega, by omega, hv⟩)⟩

/-- A codeword that a Decoder in progress has read has a next state, whatever it is (R145 to R147, R176). -/
theorem runClass_next {s : State} (h : s.RunInv) (hs : s.st ≠ .halted) (hd : s.dir = .dec) (c : Codeword) :
    ∃ t, runClass c s = .next t := by
  cases hst : s.st with
  | halted => exact absurd hst hs
  | awaitFirst =>
    rcases classify_awaitFirst s.cc c with ⟨-, e⟩ | ⟨-, e⟩ | ⟨hc, e⟩ <;> rw [← hst] at e <;> rw [runClass_exec e hs]
    · exact ⟨_, exec_cwEof hd hs⟩
    · exact ⟨_, exec_cwLit_first hd hst _⟩
    · exact ⟨_, exec_cwOor hd hc (.inl hst)⟩
  | running =>
    obtain ⟨-, hprior, -⟩ := h.control
    obtain ⟨p, -, hp, -, -⟩ := hprior hst hd
    by_cases heof : c.toNat = 256
    · rw [runClass_exec (classify_eof hs s.cc heof) hs]
      exact ⟨_, exec_cwEof hd hs⟩
    by_cases hle : c.toNat ≤ s.cc
    · obtain ⟨first, more, hv⟩ := exists_codewordValue h hst hd heof hle
      obtain ⟨i, hi⟩ := exists_valueClass hv
      have hcl : classify s.st s.cc c = some i := by rw [hst]; exact classify_of_valueClass hi
      rw [runClass_exec hcl hs]
      exact ⟨_, exec_valueClass hd hst hp hv hi⟩
    · have hcount := h.count hs
      have hc : 257 ≤ c.toNat := by omega
      have hover : s.st = .awaitFirst ∨ (s.st = .running ∧ s.cc < c.toNat) := .inr ⟨hst, by omega⟩
      rw [runClass_exec (classify_oor hc hover) hs]
      exact ⟨_, exec_cwOor hd hc hover⟩

/-- A Decoder in progress steps: the read fails, or the codeword has a next state (R142 to R147). -/
theorem decoder_steps {s : State} (h : s.RunInv) (hr : s.request = none) (hs : s.st ≠ .halted) (hd : s.dir = .dec) :
    ∃ t, step s = .next t := by
  rw [step_of_decoder hr hd hs]
  unfold readCodeword
  cases hread : bitRead s.w s with
  | none => exact ⟨_, rfl⟩
  | some r =>
    obtain ⟨c, s'⟩ := r
    obtain ⟨-, -, -, -, -, rfl⟩ := bitRead_some hread
    obtain ⟨-, -, -, hrp, -⟩ := h.control
    exact runClass_next (runInv_advance h (rp_add_le_of_bitRead (hrp hs hd) hread)) hs hd c

/-- An Encoder in progress steps: it finds a match, or is at the end of the input (R127, R128, R131). -/
theorem encoder_steps {s : State} (h : s.RunInv) (hr : s.request = none) (hs : s.st ≠ .halted) (hd : s.dir = .enc) :
    ∃ t, step s = .next t := by
  obtain ⟨hfirst, -, hcur, -⟩ := h.control
  have hrun : s.st = .running := by
    cases hst : s.st with
    | halted => exact absurd hst hs
    | awaitFirst =>
      obtain ⟨hdec, -⟩ := hfirst hst
      cases hd.symm.trans hdec
    | running => rfl
  obtain ⟨henc, -⟩ := stepRunsTheEnabledOperation s hr
  obtain ⟨hstep, heof⟩ := henc hd hrun
  by_cases hc : s.cur < s.input.length
  · rw [hstep hc]
    rcases longestPrefix_cases s.cur s with ⟨hge, -⟩ | ⟨-, t, -, -, hf, -⟩
    · omega
    · obtain ⟨⟨code, hcode⟩, -⟩ := longestPrefix_of_runInv h hrun hd hf
      exact ⟨_, execEncStep_of_match hd hrun hf hcode⟩
  · have hcur : s.cur ≤ s.input.length := hcur hs hd
    have hend : s.cur = s.input.length := by omega
    rw [heof hend]
    exact ⟨_, encEofEndsTheStream s hd hrun hend⟩

/-- Settles O51, by role. -/
theorem runInProgressAlwaysSteps : Obligations.RunInProgressAlwaysSteps := by
  intro s hi hr hs
  cases hd : s.dir with
  | enc => exact encoder_steps hi.runInv hr hs hd
  | dec => exact decoder_steps hi.runInv hr hs hd

/-- Settles O58: a match has at least one byte, a codeword at least nine bits, and both lie within their buffers. -/
theorem everyStepMakesProgress : Obligations.EveryStepMakesProgress := by
  intro s t hi hr hs h
  obtain ⟨hw, -, -⟩ := hi.width hs
  obtain ⟨-, -, -, hrp, -⟩ := hi.control
  rcases run_cases hs h with ⟨hreq, -⟩ | ⟨-, hrun, hd, -, found, code, hf, -, rfl⟩ | ⟨-, -, -, -, rfl⟩ |
    ⟨-, -, -, rfl⟩ | ⟨-, hd, c, hread, hcase⟩
  · exact absurd hr hreq
  · obtain ⟨-, h1, hend, -⟩ := longestPrefix_of_runInv hi.runInv hrun hd hf
    refine ⟨fun _ => .inr ?_, fun hdec => ?_⟩
    · rw [encEmit_cur]
      omega
    · cases hd.symm.trans hdec
  · exact ⟨fun _ => .inl rfl, fun _ => .inl rfl⟩
  · exact ⟨fun _ => .inl rfl, fun _ => .inl rfl⟩
  · have hle := rp_add_le_of_bitRead (hrp hs hd) hread
    refine ⟨fun henc => ?_, fun _ => ?_⟩
    · cases hd.symm.trans henc
    rcases hcase with ⟨-, rfl⟩ | ⟨-, -, rfl⟩ | ⟨-, -, rfl⟩ | ⟨-, p, b, more, -, rfl, -⟩
    · exact .inl rfl
    · exact .inl rfl
    · rw [decFirstValue_rp, advance_rp]
      exact .inr ⟨by omega, hle⟩
    · rw [decNextValue_rp, advance_rp]
      exact .inr ⟨by omega, hle⟩

end Sys2Proof.Machine
end

section
/-! PROOFS. Whole runs (spec/70_reset_and_hazards.md section 2): how a run of the machine goes on and ends, in terms of
its steps, and the runs of the empty input and of a single byte, both ways (spec/43_encoder.md R131, R134). -/

namespace Sys2Proof.Machine

/-! Runs and steps. -/

theorem run_succ_of_step {s t : State} (h : step s = .next t) (k : Nat) :
    Host.Core.run core (k + 1) s = Host.Core.run core k t := by
  have hcore : core.step s = .next t := h
  simp only [Host.Core.run, hcore]

theorem run_zero_next {s e : State} (h : Host.Core.run core 0 s = .next e) : e = s := by
  cases h
  rfl

/-- A run of at least one step that answers a next state begins with a step that does. -/
theorem run_succ_next {k : Nat} {s e : State} (h : Host.Core.run core (k + 1) s = .next e) :
    ∃ t, step s = .next t ∧ Host.Core.run core k t = .next e := by
  cases hs : step s with
  | next t => exact ⟨t, rfl, by rwa [run_succ_of_step hs] at h⟩
  | fault r =>
    have hcore : core.step s = .fault r := hs
    simp [Host.Core.run, hcore] at h
  | refused r =>
    have hcore : core.step s = .refused r := hs
    simp [Host.Core.run, hcore] at h

/-- A halted machine without a request goes nowhere (R10). -/
theorem run_of_halted {k : Nat} {s e : State} (hs : s.st = .halted) (hr : s.request = none)
    (h : Host.Core.run core k s = .next e) : e = s := by
  cases k with
  | zero => exact run_zero_next h
  | succ k =>
    obtain ⟨t, ht, -⟩ := run_succ_next h
    rw [step_of_halted hr hs] at ht
    cases ht

@[simp] theorem encEmit_request (found : Str) (code : Codeword) (s : State) :
    (encEmit found code s).request = s.request := by
  simp [encEmit]

/-- No step of a run places a request. -/
theorem step_request_of_run {s t : State} (hs : s.st ≠ .halted) (hr : s.request = none) (h : step s = .next t) :
    t.request = none := by
  rcases run_cases hs h with ⟨hreq, -⟩ | ⟨-, -, -, -, found, code, -, -, rfl⟩ | ⟨-, -, -, -, rfl⟩ | ⟨-, -, -, rfl⟩ |
    ⟨-, -, c, -, heof | hoor | hfirst | hnext⟩
  · exact absurd hr hreq
  · simpa using hr
  · exact hr
  · exact hr
  · obtain ⟨-, rfl⟩ := heof; exact hr
  · obtain ⟨-, -, rfl⟩ := hoor; exact hr
  · obtain ⟨-, -, rfl⟩ := hfirst; simpa [decFirstValue] using hr
  · obtain ⟨-, p, b, more, -, rfl, -⟩ := hnext; simpa [decNextValue] using hr

/-- What has been written is at the front of what a run ends with (R42, R201). -/
theorem outbits_prefix_of_run {k : Nat} {s e : State} (hr : s.request = none) (h : Host.Core.run core k s = .next e) :
    s.outbits <+: e.outbits := by
  induction k generalizing s with
  | zero =>
    obtain rfl := run_zero_next h
    exact List.prefix_rfl
  | succ k ih =>
    obtain ⟨t, ht, hrest⟩ := run_succ_next h
    by_cases hs : s.st = .halted
    · rw [step_of_halted hr hs] at ht
      cases ht
    · obtain ⟨hout, -⟩ := writtenOutputStays s t hs ht
      exact hout.trans (ih (step_request_of_run hs hr ht) hrest)

/-! The ends of a run. -/

/-- The stream of an Encoder that has reached the end of its input, with EOF and the pad (R131). -/
def eofStream (s : State) : Bits :=
  s.outbits ++ bitsOfNat s.w 256 ++ List.replicate ((8 - (s.outbits.length + s.w) % 8) % 8) false

/-- The last step of a compress run (R131). -/
theorem step_of_input_end {s : State} (hd : s.dir = .enc) (hs : s.st = .running) (hr : s.request = none)
    (hc : s.cur = s.input.length) : step s = .next { s with outbits := eofStream s, st := .halted } := by
  obtain ⟨henc, -⟩ := stepRunsTheEnabledOperation s hr
  obtain ⟨-, heof⟩ := henc hd hs
  rw [heof hc, encEofEndsTheStream s hd hs hc, eofStream]

/-- The last step of an expand run that ends in success (R146). -/
theorem step_of_eof_bits {s : State} {rest : Bits} (hd : s.dir = .dec) (hs : s.st ≠ .halted) (hr : s.request = none)
    (hw : 9 ≤ s.w) (hbits : s.inbits.drop s.rp = bitsOfNat s.w 256 ++ rest) :
    step s = .next { advance s.w s with st := .halted } := by
  have hlt : (256 : Codeword).toNat < 2 ^ s.w :=
    lt_of_lt_of_le (by decide : 256 < 2 ^ 9) (Nat.pow_le_pow_right (by decide) hw)
  rw [step_of_decoder hr hd hs, readCodeword_of_bits hs hlt hbits (classify_eof hs s.cc rfl)]
  exact exec_cwEof (s := advance s.w s) hd hs

/-- A compress run that has reached the end of its input ends there. -/
theorem run_of_input_end {k : Nat} {s e : State} (hd : s.dir = .enc) (hs : s.st = .running) (hr : s.request = none)
    (hc : s.cur = s.input.length) (h : Host.Core.run core k s = .next e) (he : e.st = .halted) :
    e = { s with outbits := eofStream s, st := .halted } := by
  cases k with
  | zero =>
    obtain rfl := run_zero_next h
    cases hs.symm.trans he
  | succ k =>
    rw [run_succ_of_step (step_of_input_end hd hs hr hc)] at h
    exact run_of_halted rfl hr h

/-! The runs of the empty input and of a single byte. -/

/-- The compress run of the empty input: the start, and EOF at once (R131). -/
theorem emptyRun {s : State} {m : Mode} (hs : s.st = .halted) (hr : s.request = some (.start (0#1 ++ m.code)))
    (hin : s.input = []) : ∃ e, Host.Core.run core 2 s = .next e ∧ e.st = .halted ∧ e.err = .none ∧
      e.outbits = bitsOfNat 8 (tagOf m).toNat ++ bitsOfNat 9 256 ++ List.replicate 7 false := by
  rw [run_succ_of_step (step_compress hs hr), encLoad_eq, run_succ_of_step (step_of_input_end rfl rfl rfl (by simp [hin]))]
  exact ⟨_, rfl, rfl, rfl, by simp [eofStream]⟩

/-- An expand run after its start, on a stream whose first codeword is EOF: the empty output (R146). -/
theorem emptyExpand {d : State} {m : Mode} {x : BitVec 2} {rest : Bits} (hs : d.st = .halted)
    (hr : d.request = some (.start (1#1 ++ x)))
    (hin : d.inbits = bitsOfNat 8 (tagOf m).toNat ++ bitsOfNat 9 256 ++ rest) :
    ∃ d', Host.Core.run core 2 d = .next d' ∧ d'.st = .halted ∧ d'.err = .none ∧ d'.outb = [] := by
  rw [List.append_assoc] at hin
  rw [run_succ_of_step (step_expand hs hr), decBegin_of_tag (s := { d with request := none }) hin,
    run_succ_of_step (step_of_eof_bits (rest := rest) rfl (by simp) rfl le_rfl (by simp [hin]))]
  exact ⟨_, rfl, rfl, rfl, rfl⟩

/-- ENC.start's next state in the fields a run's first step reads (R126). -/
theorem encLoad_started (m : Mode) (s : State) :
    (encLoad m s).dir = .enc ∧ (encLoad m s).st = .running ∧ (encLoad m s).err = .none ∧ (encLoad m s).w = 9 ∧
      (encLoad m s).l = 512 ∧ (encLoad m s).cc = 257 ∧ (encLoad m s).cur = 0 ∧ (encLoad m s).input = s.input ∧
      (encLoad m s).request = s.request ∧ ∀ b : Byte, dictGet (encLoad m s) [b] = some (b.setWidth 16) := by
  rw [encLoad_eq]
  exact ⟨rfl, rfl, rfl, rfl, rfl, rfl, rfl, rfl, rfl, dictGet_dictInit_single s⟩

/-- A match that ends the input is not extended, so below the capacity W is kept, or restarted by the policy. -/
theorem encEmit_w_of_input_end {found : Str} (code : Codeword) {s : State}
    (hend : s.input.length ≤ s.cur + found.length) (hcc : s.cc ≠ s.l) :
    (encEmit found code s).w = s.w ∨ (encEmit found code s).w = 9 := by
  rw [encEmit_eq]
  have hw : (encBeforePolicy found code s).w = s.w := by
    rcases encBeforePolicy_insert_cases found code s with ⟨b, hb, -⟩ | ⟨-, hcc', -⟩
    · obtain ⟨hlt, -⟩ := List.getElem?_eq_some_iff.1 hb
      omega
    · rcases encBeforePolicy_growth_cases found code s with ⟨hfull, -⟩ | ⟨-, hw, -⟩
      · exact absurd (hcc'.symm.trans hfull) hcc
      · exact hw
  obtain ⟨-, ⟨hw', -⟩ | ⟨hw', -⟩⟩ := rpCheck_shape .enc (encBeforePolicy found code s)
  · exact .inl (hw'.trans hw)
  · exact .inr hw'

/-- An Encoder in progress with a match and its codeword emits it (R127, R128). -/
theorem step_of_match {s : State} {found : Str} {code : Codeword} (hd : s.dir = .enc) (hs : s.st = .running)
    (hr : s.request = none) (hc : s.cur < s.input.length) (hf : longestPrefix s.cur s = some found)
    (hcode : dictGet s found = some code) : step s = .next (encEmit found code s) := by
  obtain ⟨henc, -⟩ := stepRunsTheEnabledOperation s hr
  obtain ⟨hgo, -⟩ := henc hd hs
  rw [hgo hc]
  exact execEncStep_of_match hd hs hf hcode

/-- The compress run of one byte: its codeword, no insert since no byte follows, and EOF at the same width (R134). -/
theorem singleByteRun {s : State} {m : Mode} {b : Byte} (hs : s.st = .halted)
    (hr : s.request = some (.start (0#1 ++ m.code))) (hin : s.input = [b]) :
    ∃ e, Host.Core.run core 3 s = .next e ∧ e.st = .halted ∧ e.err = .none ∧
      e.outbits =
        bitsOfNat 8 (tagOf m).toNat ++ bitsOfNat 9 b.toNat ++ bitsOfNat 9 256 ++ List.replicate 6 false := by
  rw [run_succ_of_step (step_compress hs hr)]
  have hout := encLoad_outbits m { s with request := none }
  obtain ⟨hd, hrun, herr, hw, hl, hcc, hcur, hein, hreq, hbytes⟩ := encLoad_started m { s with request := none }
  generalize encLoad m { s with request := none } = e at *
  have hein : e.input = [b] := hein.trans hin
  have hf : longestPrefix e.cur e = some [b] := by simp [longestPrefix, hcur, hein, extendMatch]
  have hw' : (encEmit [b] (b.setWidth 16) e).w = 9 := by
    rcases encEmit_w_of_input_end (s := e) (found := [b]) (b.setWidth 16) (by simp [hein]) (by omega) with h | h
    · exact h.trans hw
    · exact h
  have hst' : (encEmit [b] (b.setWidth 16) e).st = .running := (encEmit_width_st _ _ e).1.trans hrun
  rw [run_succ_of_step (step_of_match hd hrun hreq (by simp [hcur, hein]) hf (hbytes b)),
    run_succ_of_step (step_of_input_end (by simpa using hd) hst' (by simpa using hreq) (by simp [hcur, hein]))]
  refine ⟨_, rfl, rfl, by simpa using herr, ?_⟩
  simp only [eofStream, hw', encEmit_outbits, hout, hw, toNat_setWidth_byte]
  simp

/-- The first step of an expand run on a literal (R145). -/
theorem step_of_first_literal_bits {s : State} {b : Byte} {rest : Bits} (hr : s.request = none) (hd : s.dir = .dec)
    (hs : s.st = .awaitFirst) (hcc : s.cc = 257) (hl : s.l = 512) (hm : s.mon = false) (hw : 8 ≤ s.w)
    (hbits : s.inbits.drop s.rp = bitsOfNat s.w b.toNat ++ rest) :
    step s = .next { s with
      rp := s.rp + s.w, outb := s.outb ++ [b], prior := some [b], st := .running
      u := if s.mode = .monitored then s.u + 8 else s.u, c := if s.mode = .monitored then s.c + s.w else s.c } := by
  obtain ⟨-, hdec, -⟩ := stepRunsTheEnabledOperation s hr
  obtain ⟨hfirst, -⟩ := hdec hd
  obtain ⟨-, hread⟩ := decFirstTakesALiteral s b hd hs hcc hl hm
  rw [hfirst hs, hread rest hw hbits]

/-- An expand run after its start, on a stream of one literal and EOF at width 9: that byte (R145, R146). -/
theorem singleByteExpand {d : State} {m : Mode} {x : BitVec 2} {b : Byte} {rest : Bits} (hs : d.st = .halted)
    (hr : d.request = some (.start (1#1 ++ x)))
    (hin : d.inbits = bitsOfNat 8 (tagOf m).toNat ++ bitsOfNat 9 b.toNat ++ bitsOfNat 9 256 ++ rest) :
    ∃ d', Host.Core.run core 3 d = .next d' ∧ d'.st = .halted ∧ d'.err = .none ∧ d'.outb = [b] := by
  have hafter : d.inbits.drop (8 + 9) = bitsOfNat 9 256 ++ rest := by
    rw [hin, List.append_assoc]
    exact List.drop_left' (by simp)
  simp only [List.append_assoc] at hin
  rw [run_succ_of_step (step_expand hs hr), decBegin_of_tag (s := { d with request := none }) hin,
    run_succ_of_step (step_of_first_literal_bits (b := b) (rest := bitsOfNat 9 256 ++ rest) rfl rfl rfl rfl rfl rfl (by simp)
      (by simp [hin])),
    run_succ_of_step (step_of_eof_bits (rest := rest) rfl (by simp) rfl le_rfl hafter)]
  exact ⟨_, rfl, rfl, rfl, rfl⟩

/-- Settles O59: the two runs and the expand runs of their streams. -/
theorem emptyAndSingleByteRuns : Obligations.EmptyAndSingleByteRuns := by
  refine fun s m hs hr => ⟨fun hin => ?_, fun b hin => ?_⟩
  · obtain ⟨e, hrun, hst, herr, hout⟩ := emptyRun hs hr hin
    exact ⟨e, hrun, hst, herr, hout, fun d x hds hdr hdin => emptyExpand hds hdr (hdin.trans hout)⟩
  · obtain ⟨e, hrun, hst, herr, hout⟩ := singleByteRun hs hr hin
    exact ⟨e, hrun, hst, herr, hout, fun d x hds hdr hdin => singleByteExpand hds hdr (hdin.trans hout)⟩

end Sys2Proof.Machine
end

section
/-! PROOFS. The Decoder follows the Encoder (spec/44_decoder.md R154): the relation between the two machines at the
begin of each symbol, its step, and the round trip. The Decoder's table lags by the entry whose last byte it has not
seen yet; the one-early tests (R97, R99) make both sides grow and reset at the same symbol, but for the last (R203). -/

namespace Sys2Proof.Machine

/-! The policy check on both sides. -/

theorem resetsOn_iff (d : Dir) (s : State) : ResetsOn d s ↔
    (s.mode = .periodic ∧ s.cc + lag d = s.l ∧ s.w = 16) ∨
      (s.mode = .monitored ∧ s.mon = true ∧ 11 * s.bc * s.u ≤ 10 * s.bu * s.c) := by
  rw [ResetsOn, fullAtMaxWidth_iff_lag, degraded_iff]

theorem capturesOn_iff (d : Dir) (s : State) : CapturesOn d s ↔
    s.mode = .monitored ∧ s.mon = false ∧ s.cc + lag d = s.l ∧ s.w = 16 := by
  rw [CapturesOn, fullAtMaxWidth_iff_lag]

/-- Without a reset the policy check touches the baseline and MON only (R111). -/
theorem rpCheck_of_not_resetsOn {d : Dir} {s : State} (h : ¬ ResetsOn d s) :
    ∃ bu bc mon, rpCheck d s = { s with bu := bu, bc := bc, mon := mon } ∧
      (CapturesOn d s → bu = s.u ∧ bc = s.c ∧ mon = true) ∧
      (¬ CapturesOn d s → bu = s.bu ∧ bc = s.bc ∧ mon = s.mon) := by
  rcases rpCheck_cases d s with ⟨hr, -⟩ | ⟨-, hc, e⟩ | ⟨-, hc, e⟩
  · exact absurd hr h
  · exact ⟨_, _, _, e, fun _ => ⟨rfl, rfl, rfl⟩, fun hno => absurd hc hno⟩
  · exact ⟨s.bu, s.bc, s.mon, e, fun hyes => absurd hyes hc, fun _ => ⟨rfl, rfl, rfl⟩⟩

theorem rpCheck_of_resetsOn {d : Dir} {s : State} (h : ResetsOn d s) : rpCheck d s = rpReset d s := by
  rcases rpCheck_cases d s with ⟨-, e⟩ | ⟨hno, -⟩ | ⟨hno, -⟩
  · exact e
  · exact absurd h hno
  · exact absurd h hno

/-- Two machines agree in what the growth check and the policy check read, CC apart. -/
structure Agree (e d : State) : Prop where
  mode : d.mode = e.mode
  w    : d.w = e.w
  l    : d.l = e.l
  u    : d.u = e.u
  c    : d.c = e.c
  bu   : d.bu = e.bu
  bc   : d.bc = e.bc
  mon  : d.mon = e.mon

/-- Where both sides reset and capture alike, the policy check keeps the agreement, as a reset or not. -/
theorem rpCheck_agree {e d : State} (h : Agree e d) (hr : ResetsOn .enc e ↔ ResetsOn .dec d)
    (hc : CapturesOn .enc e ↔ CapturesOn .dec d) :
    (rpCheck .enc e = rpReset .enc e ∧ rpCheck .dec d = rpReset .dec d) ∨
    ∃ bu bc mon, rpCheck .enc e = { e with bu := bu, bc := bc, mon := mon } ∧
      rpCheck .dec d = { d with bu := bu, bc := bc, mon := mon } := by
  by_cases hreset : ResetsOn .enc e
  · exact .inl ⟨rpCheck_of_resetsOn hreset, rpCheck_of_resetsOn (hr.1 hreset)⟩
  · obtain ⟨bu, bc, mon, he, hcap, hno⟩ := rpCheck_of_not_resetsOn hreset
    obtain ⟨bu', bc', mon', hd, hcap', hno'⟩ := rpCheck_of_not_resetsOn (mt hr.2 hreset)
    refine .inr ⟨bu, bc, mon, he, ?_⟩
    by_cases hcapture : CapturesOn .enc e
    · obtain ⟨rfl, rfl, rfl⟩ := hcap hcapture
      obtain ⟨rfl, rfl, rfl⟩ := hcap' (hc.1 hcapture)
      rw [hd, h.u, h.c]
    · obtain ⟨rfl, rfl, rfl⟩ := hno hcapture
      obtain ⟨rfl, rfl, rfl⟩ := hno' (mt hc.2 hcapture)
      rw [hd, h.bu, h.bc, h.mon]

/-! The relation. -/

/-- The Decoder knows every key of the Encoder's, or is one entry behind: the entry at its CC will be PRIOR and the next
byte of the input (R147, R154). -/
structure Matched (e d : State) : Prop where
  agree : Agree e d
  count : (d.st = .awaitFirst ∧ e.cc = d.cc) ∨
    (d.st = .running ∧ (e.cc = d.cc + 1 ∨ (e.cc = d.cc ∧ e.cc = e.l)))
  keys  : ∀ k c, dictGet e k = some c →
    tabGet d c.toNat = some k ∨
      (c.toNat = d.cc ∧ ∃ p b, d.prior = some p ∧ e.input[e.cur]? = some b ∧ k = p ++ [b])

/-- A running Encoder and a Decoder in progress at the same place: the Decoder has read what the Encoder has written and
has output what the Encoder has consumed; while input is left their tables match. -/
structure InStep (e d : State) : Prop where
  encInv  : e.RunInv
  decInv  : d.RunInv
  encoder : e.dir = .enc ∧ e.st = .running ∧ e.request = none
  decoder : d.dir = .dec ∧ d.st ≠ .halted ∧ d.request = none
  rp      : d.rp = e.outbits.length
  w       : d.w = e.w
  outb    : d.outb = e.input.take e.cur
  ahead   : e.cur < e.input.length → Matched e d

/-- The Encoder's codewords are below CC, and 256 is none of them (R36). -/
theorem code_lt_cc {s : State} (h : s.RunInv) (hs : s.st = .running) (hd : s.dir = .enc) {k : Str} {c : Codeword}
    (hk : dictGet s k = some c) : c.toNat < s.cc ∧ c.toNat ≠ 256 := by
  have hrun : s.inRun := by simp [hs]
  obtain ⟨h257, -⟩ := h.count hrun
  obtain ⟨hbytes, hrange, -⟩ := h.dict hrun hd
  rcases hrange k c hk with h1 | ⟨-, h1, hlt⟩
  · obtain ⟨b, rfl⟩ := List.length_eq_one_iff.1 h1
    obtain rfl := Option.some.inj ((hbytes b).symm.trans hk)
    have := b.isLt
    rw [toNat_setWidth_byte]
    omega
  · omega

/-! The Decoder's symbol. -/

/-- What the Decoder `d` holds before its policy check once it has taken the value `found` that the Encoder `e` emits:
its CC is the Encoder's, and it knows every key the Encoder had. -/
structure Took (e : State) (found : Str) (d t : State) : Prop where
  control : t.dir = .dec ∧ t.st = .running ∧ t.request = none
  stream  : t.inbits = d.inbits ∧ t.rp = d.rp + d.w
  outb    : t.outb = d.outb ++ found
  prior   : t.prior = some found
  count   : t.cc = e.cc
  keys    : ∀ k c, dictGet e k = some c → tabGet t c.toNat = some k
  mode    : t.mode = d.mode
  u       : t.u = if d.mode = .monitored then d.u + 8 * found.length else d.u
  c       : t.c = if d.mode = .monitored then d.c + d.w else d.c
  kept    : t.bu = d.bu ∧ t.bc = d.bc ∧ t.mon = d.mon
  growth  : (t.cc + 1 = d.l ∧ d.w < 16 ∧ t.w = d.w + 1 ∧ t.l = d.l * 2) ∨
    (¬ (t.cc + 1 = d.l ∧ d.w < 16) ∧ t.w = d.w ∧ t.l = d.l)

/-- Of a value in TAB below 256 the index is the byte itself (R36). -/
theorem tabGet_literal {s : State} (h : s.RunInv) (hs : s.st ≠ .halted) (hd : s.dir = .dec) {c : Codeword} {k : Str}
    (hc : c.toNat < 256) (hk : tabGet s c.toNat = some k) : k = [c.setWidth 8] := by
  obtain ⟨-, hbytes, -⟩ := h.tab hs hd
  have hbyte := hbytes (c.setWidth 8)
  rw [toNat_setWidth_literal hc, hk] at hbyte
  exact Option.some.inj hbyte

/-- The indices with a value are below CC (R36). -/
theorem lt_cc_of_tabGet {s : State} (h : s.RunInv) (hs : s.st ≠ .halted) (hd : s.dir = .dec) {i : Nat} {k : Str}
    (hk : tabGet s i = some k) : i < s.cc ∧ i ≠ 256 := by
  obtain ⟨h257, -⟩ := h.count hs
  obtain ⟨hrange, -⟩ := h.tab hs hd
  have := (hrange i).1 ⟨k, hk⟩
  omega

/-- In AwaitFirst there is no PRIOR, so every key the Encoder has is in TAB. -/
theorem Matched.keys_of_awaitFirst {e d : State} (hm : Matched e d) (h : d.RunInv) (hs : d.st = .awaitFirst)
    {k : Str} {c : Codeword} (hk : dictGet e k = some c) : tabGet d c.toNat = some k := by
  obtain ⟨hfirst, -⟩ := h.control
  obtain ⟨-, -, -, hprior, -⟩ := hfirst hs
  rcases hm.keys k c hk with htab | ⟨-, p, b, hp, -⟩
  · exact htab
  · rw [hprior] at hp
    cases hp

/-- In AwaitFirst the Decoder takes the Encoder's codeword as a literal (R145). -/
theorem took_of_awaitFirst {e d : State} (h : InStep e d) (hc : e.cur < e.input.length) (hs : d.st = .awaitFirst)
    {found : Str} {code : Codeword} {rest : Bits} (hcode : dictGet e found = some code)
    (hbits : d.inbits.drop d.rp = bitsOfNat d.w code.toNat ++ rest) :
    ∃ t, step d = .next (rpCheck .dec t) ∧ Took e found d t := by
  obtain ⟨hdir, hrun, hreq⟩ := h.decoder
  obtain ⟨-, hw, hl, hcc, hmon⟩ := awaitFirst_of_runInv h.decInv hs
  have hm := h.ahead hc
  have hcount : e.cc = d.cc := by
    rcases hm.count with ⟨-, he⟩ | ⟨hrunning, -⟩
    · exact he
    · cases hs.symm.trans hrunning
  have htab := hm.keys_of_awaitFirst h.decInv hs hcode
  obtain ⟨hlt, hne⟩ := lt_cc_of_tabGet h.decInv hrun hdir htab
  obtain rfl := tabGet_literal h.decInv hrun hdir (by omega) htab
  rw [← toNat_setWidth_literal (c := code) (by omega)] at hbits
  have hstep := step_of_first_literal_bits hreq hdir hs hcc hl hmon (by omega) hbits
  have hquiet (t : State) (htm : t.mon = d.mon) (htcc : t.cc = d.cc) (htl : t.l = d.l) : rpCheck .dec t = t :=
    rpCheck_of_quiet (htm.trans hmon) (by simp [lag, htcc, htl, hcc, hl])
  refine ⟨_, hstep.trans (congrArg _ (hquiet _ ?_ ?_ ?_).symm), ?_⟩
  case refine_4 =>
    exact {
      control := ⟨hdir, rfl, hreq⟩
      stream := ⟨rfl, rfl⟩
      outb := rfl
      prior := rfl
      count := hcount.symm
      keys := fun k c hk => hm.keys_of_awaitFirst h.decInv hs hk
      mode := rfl
      u := rfl
      c := rfl
      kept := ⟨rfl, rfl, rfl⟩
      growth := .inr ⟨by simp [hcc, hl], rfl, rfl⟩ }
  all_goals rfl

/-- The match begins with the next byte of the input (R82). -/
theorem head_of_longestPrefix {s : State} {first : Byte} {more : Str}
    (htake : first :: more = (s.input.drop s.cur).take (first :: more).length) : s.input[s.cur]? = some first := by
  have hhead := congrArg (fun l : Str => l[0]?) htake
  simpa using hhead.symm

/-- In Running the Encoder's codeword has, for the Decoder, the Encoder's match as its value: an entry of TAB, or, one
ahead, PRIOR and its own first byte (R147, R148). -/
theorem codewordValue_of_inStep {e d : State} (h : InStep e d) (hc : e.cur < e.input.length) (hs : d.st = .running)
    {code : Codeword} {first : Byte} {more : Str} (hf : longestPrefix e.cur e = some (first :: more))
    (hcode : dictGet e (first :: more) = some code) : codewordValue d code (first :: more) := by
  obtain ⟨hdir, hrun, -⟩ := h.decoder
  obtain ⟨hedir, herun, -⟩ := h.encoder
  obtain ⟨h257, -⟩ := h.decInv.count hrun
  rcases (h.ahead hc).keys _ _ hcode with htab | ⟨heq, p, b, hp, hb, hk⟩
  · obtain ⟨hlt, hne⟩ := lt_cc_of_tabGet h.decInv hrun hdir htab
    by_cases hlit : code.toNat < 256
    · exact .inl ⟨hlit, tabGet_literal h.decInv hrun hdir hlit htab⟩
    · exact .inr (.inl ⟨by omega, hlt, htab⟩)
  · obtain ⟨-, hprior, -⟩ := h.decInv.control
    obtain ⟨p', -, hp', hne, -⟩ := hprior hs hdir
    obtain rfl : p' = p := Option.some.inj (hp'.symm.trans hp)
    obtain ⟨q, qs, rfl⟩ := List.exists_cons_of_ne_nil hne
    obtain ⟨-, -, -, htake⟩ := longestPrefix_of_runInv h.encInv herun hedir hf
    obtain rfl : first = b := Option.some.inj ((head_of_longestPrefix htake).symm.trans hb)
    obtain rfl : first = q := (List.cons.inj hk).1
    exact .inr (.inr ⟨by omega, heq, _, qs, hp, hk⟩)

/-- In Running the Decoder takes the Encoder's codeword as a further value, and the append gives it the entry it was
behind by (R147). -/
theorem took_of_running {e d : State} (h : InStep e d) (hc : e.cur < e.input.length) (hs : d.st = .running)
    {found : Str} {code : Codeword} {rest : Bits} (hf : longestPrefix e.cur e = some found)
    (hcode : dictGet e found = some code) (hlt : code.toNat < 2 ^ d.w)
    (hbits : d.inbits.drop d.rp = bitsOfNat d.w code.toNat ++ rest) :
    ∃ t, step d = .next (rpCheck .dec t) ∧ Took e found d t := by
  obtain ⟨hdir, hrun, hreq⟩ := h.decoder
  obtain ⟨hedir, herun, -⟩ := h.encoder
  have hm := h.ahead hc
  obtain ⟨h257, -⟩ := h.decInv.count hrun
  obtain ⟨-, hle, -⟩ := h.encInv.count (by simp [herun])
  obtain ⟨-, h1, -, htake⟩ := longestPrefix_of_runInv h.encInv herun hedir hf
  obtain ⟨first, more, rfl⟩ := List.exists_cons_of_length_pos h1
  obtain ⟨-, hprior, -⟩ := h.decInv.control
  obtain ⟨p, -, hp, -, -⟩ := hprior hs hdir
  have hv := codewordValue_of_inStep h hc hs hf hcode
  obtain ⟨-, hdec, -⟩ := stepRunsTheEnabledOperation d hreq
  obtain ⟨-, hnext⟩ := hdec hdir
  have hcount : e.cc = d.cc + 1 ∨ (e.cc = d.cc ∧ e.cc = e.l) := by
    rcases hm.count with ⟨hfirst, -⟩ | ⟨-, hcc⟩
    · cases hs.symm.trans hfirst
    · exact hcc
  have hl := hm.agree.l
  have happend := decBeforePolicy_append_cases p first more (advance d.w d)
  simp only [advance_cc, advance_l] at happend
  refine ⟨_, (hnext hs).trans (decNextTakesAValue d code p first more rest hdir hs hp hv hlt h257 hbits), ?_⟩
  exact {
    control := ⟨hdir, hs, hreq⟩
    stream := ⟨rfl, rfl⟩
    outb := rfl
    prior := rfl
    count := by
      rcases happend with ⟨hroom, hcc, -⟩ | ⟨hfull, hcc, -⟩ <;> refine hcc.trans ?_ <;> omega
    keys := fun k c hk => by
      obtain ⟨hclt, -⟩ := code_lt_cc h.encInv herun hedir hk
      rcases hm.keys k c hk with htab | ⟨heq, p', b, hp', hb, rfl⟩
      · obtain ⟨hltcc, -⟩ := lt_cc_of_tabGet h.decInv hrun hdir htab
        rcases happend with ⟨-, -, hget⟩ | ⟨-, -, hget⟩
        · exact (hget c.toNat).trans ((if_neg (by omega)).trans htab)
        · exact (hget c.toNat).trans htab
      · rcases happend with ⟨-, -, hget⟩ | ⟨hfull, -, -⟩
        · obtain rfl : p' = p := Option.some.inj (hp'.symm.trans hp)
          obtain rfl : first = b := Option.some.inj ((head_of_longestPrefix htake).symm.trans hb)
          exact (hget c.toNat).trans (if_pos heq)
        · omega
    mode := rfl
    u := rfl
    c := rfl
    kept := ⟨rfl, rfl, rfl⟩
    growth := decBeforePolicy_growth_cases p first more (advance d.w d) }

end Sys2Proof.Machine
end

section
/-! PROOFS. The round trip (spec/44_decoder.md R154): one symbol of the Encoder and the Decoder's answer to it keep them
in step, the starts bring them in step, and at the end of the input both read and write EOF at the same width, outside
the case of R203. -/

namespace Sys2Proof.Machine

/-! The checks of one symbol on both sides. -/

/-- A full table is one that may be full: W = 16, not in mode PERIODIC, and in mode MONITORED only while monitoring
(R35). -/
theorem full_of_runInv {s : State} (h : s.RunInv) (hs : s.st = .running) (hfull : s.l ≤ s.cc) :
    s.cc = s.l ∧ s.w = 16 ∧ s.mode ≠ .periodic ∧ (s.mode = .monitored → s.mon = true) := by
  have hrun : s.inRun := by simp [hs]
  obtain ⟨-, h16, -⟩ := h.width hrun
  obtain ⟨-, hle, hmust⟩ := h.count hrun
  have hmay : ¬ (s.w < 16 ∨ s.mode = .periodic ∨ (s.mode = .monitored ∧ s.mon = false)) := by
    intro hmust'
    have := hmust hmust'
    omega
  refine ⟨Nat.le_antisymm hle hfull, ?_, fun hm => hmay (.inr (.inl hm)), fun hm => ?_⟩
  · by_contra hne
    exact hmay (.inl (by omega))
  · by_contra hoff
    exact hmay (.inr (.inr ⟨hm, by simpa using hoff⟩))

/-- Where both sides have grown alike, they agree before the policy check. -/
theorem Took.agree {e d t : State} {found : Str} (ht : Took e found d t) (ha : Agree e d) (code : Codeword)
    (hw : t.w = (encBeforePolicy found code e).w) (hl : t.l = (encBeforePolicy found code e).l) :
    Agree (encBeforePolicy found code e) t := by
  obtain ⟨hbu, hbc, hmon⟩ := ht.kept
  exact {
    mode := ht.mode.trans ha.mode
    w := hw
    l := hl
    u := by rw [ht.u, ha.mode, ha.u]; rfl
    c := by rw [ht.c, ha.mode, ha.c, ha.w]; rfl
    bu := hbu.trans ha.bu
    bc := hbc.trans ha.bc
    mon := hmon.trans ha.mon }

/-- One entry behind, the one-early tests of the Decoder are the Encoder's (R97, R99). -/
theorem tests_agree_of_lag {e d : State} (h : Agree e d) (hcc : e.cc = d.cc + 1) :
    (ResetsOn .enc e ↔ ResetsOn .dec d) ∧ (CapturesOn .enc e ↔ CapturesOn .dec d) := by
  simp only [resetsOn_iff, capturesOn_iff, h.mode, h.w, h.l, h.u, h.c, h.bu, h.bc, h.mon, hcc, lag, Nat.add_zero,
    and_self]

/-- With a table that may be full only the degradation test is left, on both sides (R110, R111). -/
theorem tests_agree_of_full {e d : State} (h : Agree e d) (hm : e.mode ≠ .periodic)
    (hon : e.mode = .monitored → e.mon = true) :
    (ResetsOn .enc e ↔ ResetsOn .dec d) ∧ (CapturesOn .enc e ↔ CapturesOn .dec d) := by
  have hno : ¬ (e.mode = .monitored ∧ e.mon = false) := by
    rintro ⟨hmode, hoff⟩
    rw [hon hmode] at hoff
    cases hoff
  refine ⟨?_, iff_of_false (fun ⟨h1, h2, _⟩ => hno ⟨h1, h2⟩)
    fun ⟨h1, h2, _⟩ => hno ⟨h.mode.symm.trans h1, h.mon.symm.trans h2⟩⟩
  simp only [resetsOn_iff, h.mode, h.u, h.c, h.bu, h.bc, h.mon, hm, false_and, false_or]

/-! A symbol after which input is left. -/

/-- The two sides before the policy check, when a byte follows the match: the Encoder is one entry ahead or both tables
are full, and both have grown or neither. -/
theorem beforePolicy_of_next {e d t : State} {found : Str} (code : Codeword) (he : e.RunInv) (hs : e.st = .running)
    (ha : Agree e d) (ht : Took e found d t) (hnext : e.cur + found.length < e.input.length) :
    Agree (encBeforePolicy found code e) t ∧
      ((encBeforePolicy found code e).cc = t.cc + 1 ∨
        ((encBeforePolicy found code e).cc = t.cc ∧
          (encBeforePolicy found code e).cc = (encBeforePolicy found code e).l ∧
          e.mode ≠ .periodic ∧ (e.mode = .monitored → e.mon = true))) := by
  have hgrow := encBeforePolicy_growth_cases found code e
  have hgrow' := ht.growth
  rw [ha.w, ha.l] at hgrow'
  have hcount := ht.count
  rcases encBeforePolicy_insert_cases found code e with ⟨b, -, -, hcc, -⟩ | ⟨hend | hfull, hcc, -⟩
  · exact ⟨ht.agree ha code (by omega) (by omega), .inl (by omega)⟩
  · omega
  · obtain ⟨hccl, hw, hper, hon⟩ := full_of_runInv he hs hfull
    exact ⟨ht.agree ha code (by omega) (by omega), .inr ⟨by omega, by omega, hper, hon⟩⟩

/-- What the Encoder knows after its insert the Decoder knows, but for the new entry, which PRIOR and the next byte will
make (R147, R154). -/
theorem keys_beforePolicy {e d t : State} {found : Str} (code : Codeword) (he : e.RunInv) (hs : e.st = .running)
    (ht : Took e found d t) {k : Str} {c : Codeword} (hk : dictGet (encBeforePolicy found code e) k = some c) :
    tabGet t c.toNat = some k ∨
      (c.toNat = t.cc ∧ ∃ p b, t.prior = some p ∧ e.input[e.cur + found.length]? = some b ∧ k = p ++ [b]) := by
  rcases encBeforePolicy_insert_cases found code e with ⟨b, hb, hcc, -, hget⟩ | ⟨-, -, hget⟩
  · rw [hget] at hk
    split at hk
    case isTrue hnew =>
      have hl := l_le_of_width (he.width (by simp [hs]))
      obtain rfl := Option.some.inj hk
      exact .inr ⟨(toNat_ofNat_codeword (by omega)).trans ht.count.symm, found, b, ht.prior, hb, hnew⟩
    case isFalse => exact .inl (ht.keys k c hk)
  · rw [hget] at hk
    exact .inl (ht.keys k c hk)

/-- After both inits TAB holds every key of DICT. -/
theorem tabGet_tabInit_of_dictInit {s t : State} {k : Str} {c : Codeword} (h : dictGet (dictInit s) k = some c) :
    tabGet (tabInit t) c.toNat = some k := by
  by_cases hk : k.length = 1
  · obtain ⟨b, rfl⟩ := List.length_eq_one_iff.1 hk
    obtain rfl := Option.some.inj ((dictGet_dictInit_single s b).symm.trans h)
    rw [toNat_setWidth_byte]
    exact tabGet_tabInit_byte t b
  · rw [dictGet_dictInit_other s k hk] at h
    cases h

/-- After a policy reset on both sides the tables match, as after the starts (R108). -/
theorem matched_of_reset {e d : State} (hm : d.mode = e.mode) (n : Nat) :
    Matched { rpReset .enc e with cur := n } (rpReset .dec d) where
  agree := ⟨by simpa using hm, by simp, by simp, by simp, by simp, by simp, by simp, by simp⟩
  count := .inl ⟨rfl, by simp⟩
  keys := fun k c hk => .inl (tabGet_tabInit_of_dictInit (s := e) (t := d) hk)

/-- A symbol after which input is left keeps the tables matched, over a reset or not (R128, R147, R154). -/
theorem matched_of_next {e d t : State} {found : Str} (code : Codeword) (he : e.RunInv) (hs : e.st = .running)
    (ha : Agree e d) (ht : Took e found d t) (hnext : e.cur + found.length < e.input.length) :
    Matched (encEmit found code e) (rpCheck .dec t) := by
  obtain ⟨hagree, hcount⟩ := beforePolicy_of_next code he hs ha ht hnext
  have htests : (ResetsOn .enc (encBeforePolicy found code e) ↔ ResetsOn .dec t) ∧
      (CapturesOn .enc (encBeforePolicy found code e) ↔ CapturesOn .dec t) := by
    rcases hcount with hlag | ⟨-, -, hper, hon⟩
    · exact tests_agree_of_lag hagree hlag
    · exact tests_agree_of_full hagree hper hon
  obtain ⟨hreset, hcapture⟩ := htests
  rw [encEmit_eq]
  rcases rpCheck_agree hagree hreset hcapture with ⟨e1, e2⟩ | ⟨bu, bc, mon, e1, e2⟩ <;> rw [e1, e2]
  · exact matched_of_reset hagree.mode _
  · obtain ⟨-, hst, -⟩ := ht.control
    exact {
      agree := ⟨hagree.mode, hagree.w, hagree.l, hagree.u, hagree.c, rfl, rfl, rfl⟩
      count := .inr ⟨hst, hcount.imp_right fun ⟨hcc, hl, _⟩ => ⟨hcc, hl⟩⟩
      keys := fun k c hk => keys_beforePolicy code he hs ht hk }

/-! The last symbol. -/

/-- Where both sides reset or neither does, one width stays one width. -/
theorem rpCheck_w_agree {e d : State} (hw : d.w = e.w) (hr : ResetsOn .enc e ↔ ResetsOn .dec d) :
    (rpCheck .dec d).w = (rpCheck .enc e).w := by
  by_cases hreset : ResetsOn .enc e
  · rw [rpCheck_of_resetsOn hreset, rpCheck_of_resetsOn (hr.1 hreset), rpReset_w, rpReset_w]
  · obtain ⟨bu, bc, mon, e1, -⟩ := rpCheck_of_not_resetsOn hreset
    obtain ⟨bu', bc', mon', e2, -⟩ := rpCheck_of_not_resetsOn (mt hr.2 hreset)
    rw [e1, e2]
    exact hw

/-- In the case of R203 the Encoder itself does not reset: its table is not full, and monitoring needs W = 16. -/
theorem endDesync_of_one_short {e : State} {found : Str} {code : Codeword} (he : e.RunInv) (hs : e.st = .running)
    (hw : (encBeforePolicy found code e).w = e.w)
    (hshort : (encBeforePolicy found code e).cc + 1 = (encBeforePolicy found code e).l)
    (hcase : e.w < 16 ∨ e.mode = .periodic) : (encEmit found code e).endDesync := by
  have hno : ¬ ResetsOn .enc (encBeforePolicy found code e) := by
    rw [resetsOn_iff, hw]
    rintro (⟨-, hfull, -⟩ | ⟨hm, hon, -⟩)
    · simp only [lag] at hfull
      omega
    · obtain ⟨-, -, hmon⟩ := he.tracker (by simp [hs])
      obtain ⟨hw16, -⟩ := hmon hon
      have hm : e.mode = .monitored := hm
      rcases hcase with hlt | hper
      · omega
      · cases hm.symm.trans hper
  obtain ⟨bu, bc, mon, e1, -⟩ := rpCheck_of_not_resetsOn hno
  rw [encEmit_eq, e1]
  exact ⟨hshort, hcase.imp_left fun hlt => hw.trans_lt hlt⟩

/-- Outside the case of R203 the last symbol leaves both sides at one width: neither grows, since the Encoder has not
inserted, and both reset or neither. -/
theorem w_of_last {e d t : State} {found : Str} (code : Codeword) (he : e.RunInv) (hs : e.st = .running)
    (ha : Agree e d) (ht : Took e found d t) (hlast : e.cur + found.length = e.input.length)
    (hsync : ¬ (encEmit found code e).endDesync) :
    (rpCheck .dec t).w = (rpCheck .enc (encBeforePolicy found code e)).w := by
  have hcc : (encBeforePolicy found code e).cc = e.cc := by
    rcases encBeforePolicy_insert_cases found code e with ⟨b, hb, -⟩ | ⟨-, hcc, -⟩
    · obtain ⟨hlt, -⟩ := List.getElem?_eq_some_iff.1 hb
      omega
    · exact hcc
  have hgrow := encBeforePolicy_growth_cases found code e
  have hgrow' := ht.growth
  rw [ha.w, ha.l] at hgrow'
  have hcount := ht.count
  by_cases hfull : e.l ≤ e.cc
  · obtain ⟨hccl, hw16, hper, hon⟩ := full_of_runInv he hs hfull
    have hagree := ht.agree ha code (by omega) (by omega)
    exact rpCheck_w_agree hagree.w (tests_agree_of_full hagree hper hon).1
  · have hkeep : (encBeforePolicy found code e).w = e.w ∧ (encBeforePolicy found code e).l = e.l := by omega
    obtain ⟨hw, hl⟩ := hkeep
    have hshort : ¬ (e.cc + 1 = e.l ∧ (e.w < 16 ∨ e.mode = .periodic)) := fun ⟨h1, h2⟩ =>
      hsync (endDesync_of_one_short he hs hw (by omega) h2)
    have hagree := ht.agree ha code (by omega) (by omega)
    refine rpCheck_w_agree hagree.w ?_
    have henc : ¬ (e.mode = .periodic ∧ e.cc + lag .enc = e.l ∧ e.w = 16) := by
      simp only [lag]
      omega
    have hdec : ¬ (e.mode = .periodic ∧ e.cc + lag .dec = e.l ∧ e.w = 16) := fun ⟨h1, h2, _⟩ => hshort ⟨h2, .inr h1⟩
    have hmode : (encBeforePolicy found code e).mode = e.mode := rfl
    simp only [resetsOn_iff, hagree.mode, hagree.w, hagree.l, hagree.u, hagree.c, hagree.bu, hagree.bc, hagree.mon,
      hcount, hcc, hw, hl, hmode, henc, hdec]

/-! Symbol by symbol. -/

/-- One symbol keeps the two machines in step (R128, R145, R147). -/
theorem inStep_of_took {e d t : State} {found : Str} {code : Codeword} (h : InStep e d)
    (hf : longestPrefix e.cur e = some found) (hcode : dictGet e found = some code)
    (hstep : step d = .next (rpCheck .dec t)) (ht : Took e found d t)
    (hw : (rpCheck .dec t).w = (encEmit found code e).w)
    (hahead : e.cur + found.length < e.input.length → Matched (encEmit found code e) (rpCheck .dec t)) :
    InStep (encEmit found code e) (rpCheck .dec t) := by
  obtain ⟨hedir, herun, hereq⟩ := h.encoder
  obtain ⟨-, hdrun, -⟩ := h.decoder
  obtain ⟨htdir, htrun, htreq⟩ := ht.control
  obtain ⟨-, -, -, htake⟩ := longestPrefix_of_runInv h.encInv herun hedir hf
  exact {
    encInv := encEmit_runInv h.encInv herun hedir hf hcode
    decInv := step_runInv_of_run h.decInv hdrun hstep
    encoder := ⟨by simpa using hedir, (encEmit_width_st found code e).1.trans herun, by simpa using hereq⟩
    decoder := by
      refine ⟨by simpa using htdir, ?_, by simpa using htreq⟩
      obtain ⟨-, ⟨-, hst⟩ | ⟨-, -, -, -, hst⟩⟩ := rpCheck_shape .dec t
      · simp [hst, htrun]
      · simp [hst]
    rp := by
      obtain ⟨-, hrp⟩ := ht.stream
      simp [hrp, h.rp, h.w]
    w := hw
    outb := by
      rw [rpCheck_outb, ht.outb, h.outb, encEmit_input, encEmit_cur, List.take_add, ← htake]
    ahead := fun hc => hahead (by simpa using hc) }

/-- While input is left the Decoder answers the Encoder's symbol, whose bits stand next in its stream, and they stay in
step (R154). -/
theorem inStep_step {e d : State} {found : Str} {code : Codeword} {rest : Bits} (h : InStep e d)
    (hc : e.cur < e.input.length) (hf : longestPrefix e.cur e = some found) (hcode : dictGet e found = some code)
    (hbits : d.inbits.drop d.rp = bitsOfNat e.w code.toNat ++ rest)
    (hsync : e.cur + found.length = e.input.length → ¬ (encEmit found code e).endDesync) :
    ∃ t, step d = .next t ∧ t.inbits = d.inbits ∧ InStep (encEmit found code e) t := by
  obtain ⟨hedir, herun, -⟩ := h.encoder
  obtain ⟨-, hdrun, -⟩ := h.decoder
  obtain ⟨-, -, hend, -⟩ := longestPrefix_of_runInv h.encInv herun hedir hf
  obtain ⟨hlt, -⟩ := code_lt_cc h.encInv herun hedir hcode
  obtain ⟨-, hle, -⟩ := h.encInv.count (by simp [herun])
  obtain ⟨-, -, hl⟩ := h.encInv.width (by simp [herun])
  rw [← h.w] at hbits hl
  have hpow : code.toNat < 2 ^ d.w := by omega
  obtain ⟨t, hstep, ht⟩ : ∃ t, step d = .next (rpCheck .dec t) ∧ Took e found d t := by
    cases hst : d.st with
    | halted => exact absurd hst hdrun
    | awaitFirst => exact took_of_awaitFirst h hc hst hcode hbits
    | running => exact took_of_running h hc hst hf hcode hpow hbits
  obtain ⟨hin, -⟩ := ht.stream
  refine ⟨_, hstep, by simpa using hin, inStep_of_took h hf hcode hstep ht ?_ fun hnext => ?_⟩
  · by_cases hnext : e.cur + found.length < e.input.length
    · exact (matched_of_next code h.encInv herun (h.ahead hc).agree ht hnext).agree.w
    · have hlast : e.cur + found.length = e.input.length := by omega
      rw [w_of_last code h.encInv herun (h.ahead hc).agree ht hlast (hsync hlast), encEmit_eq]
  · exact matched_of_next code h.encInv herun (h.ahead hc).agree ht hnext

/-! The starts. -/

/-- ENC.start brings about the invariants of a run whatever the stores held (R126, R191). -/
theorem encLoad_runInv (m : Mode) (s : State) : (encLoad m s).RunInv := by
  have h := encLoad_inv { s with dict := [], tab := [] } m ⟨List.Pairwise.nil, List.Pairwise.nil⟩
  obtain ⟨hfirst, -, hcur, -, herr⟩ := h.control
  obtain ⟨hd, -⟩ := encLoad_started m s
  exact ⟨h.width, h.count,
    ⟨hfirst, fun _ hdec => (by cases hd.symm.trans hdec), hcur, fun _ hdec => (by cases hd.symm.trans hdec), herr⟩,
    h.tracker, h.dict, fun _ hdec => by cases hd.symm.trans hdec⟩

/-- DEC.start on a legal tag brings about the invariants of a run whatever the stores held (R141, R191). -/
theorem decBegin_runInv {s : State} {m : Mode} {rest : Bits} (hin : s.inbits = bitsOfNat 8 (tagOf m).toNat ++ rest) :
    (decBegin s).RunInv := by
  have h := decBegin_inv (s := { s with dict := [], tab := [] }) ⟨List.Pairwise.nil, List.Pairwise.nil⟩
  rw [decBegin_of_tag (s := { s with dict := [], tab := [] }) hin] at h
  rw [decBegin_of_tag hin]
  exact ⟨h.width, h.count, h.control, h.tracker, fun _ henc => (by cases henc), h.tab⟩

/-- The two starts bring the machines in step, the Decoder's stream beginning with what the Encoder has written (R126,
R141). -/
theorem inStep_of_starts (m : Mode) (s : State) {d : State} {rest : Bits} (hs : s.request = none)
    (hd : d.request = none) (hin : d.inbits = (encLoad m s).outbits ++ rest) : InStep (encLoad m s) (decBegin d) := by
  have hdec := decBegin_runInv ((encLoad_outbits m s) ▸ hin)
  rw [encLoad_outbits] at hin
  have henc := encLoad_runInv m s
  rw [decBegin_of_tag hin] at hdec ⊢
  rw [encLoad_eq] at henc ⊢
  exact {
    encInv := henc
    decInv := hdec
    encoder := ⟨rfl, rfl, hs⟩
    decoder := ⟨rfl, by simp, hd⟩
    rp := by simp
    w := rfl
    outb := rfl
    ahead := fun _ => {
      agree := ⟨rfl, rfl, rfl, rfl, rfl, rfl, rfl, rfl⟩
      count := .inl ⟨rfl, rfl⟩
      keys := fun k c hk => .inl (tabGet_tabInit_of_dictInit (s := s) (t := d) hk) } }

/-! The whole run. -/

/-- What stands in a stream after the part of it that has been written. -/
theorem drop_of_append_prefix {written bits stream : Bits} (h : written ++ bits <+: stream) :
    ∃ rest, stream.drop written.length = bits ++ rest := by
  obtain ⟨rest, rfl⟩ := h
  exact ⟨rest, by simp⟩

/-- The step of a running Encoder that has input left: it emits a match (R128). -/
theorem encoder_step_of_inStep {e d e' : State} (h : InStep e d) (hc : e.cur < e.input.length)
    (hstep : step e = .next e') : ∃ found code, longestPrefix e.cur e = some found ∧ dictGet e found = some code ∧
      e' = encEmit found code e := by
  obtain ⟨hdir, hrun, hreq⟩ := h.encoder
  rcases run_cases (by simp [hrun]) hstep with ⟨hno, -⟩ | ⟨-, -, -, -, hemit⟩ | ⟨-, -, -, hend, -⟩ | ⟨-, hdec, -⟩ |
    ⟨-, hdec, -⟩
  · exact absurd hreq hno
  · exact hemit
  · omega
  · cases hdir.symm.trans hdec
  · cases hdir.symm.trans hdec

/-- From two machines in step, a compress run that ends outside the case of R203 is followed by an expand run of its
stream, to the same input (R154). -/
theorem expand_of_inStep {k : Nat} {e d ef : State} (h : InStep e d) (hrun : Host.Core.run core k e = .next ef)
    (hef : ef.st = .halted) (hsync : ¬ ef.endDesync) (hin : d.inbits = ef.outbits) :
    ∃ j d', Host.Core.run core j d = .next d' ∧ d'.st = .halted ∧ d'.err = .none ∧ d'.outb = e.input := by
  induction k generalizing e d with
  | zero =>
    obtain rfl := run_zero_next hrun
    obtain ⟨-, hst, -⟩ := h.encoder
    cases hst.symm.trans hef
  | succ k ih =>
    obtain ⟨hdir, hst, hreq⟩ := h.encoder
    obtain ⟨hddir, hdst, hdreq⟩ := h.decoder
    by_cases hc : e.cur < e.input.length
    · obtain ⟨e', hstep, hrest⟩ := run_succ_next hrun
      obtain ⟨found, code, hf, hcode, rfl⟩ := encoder_step_of_inStep h hc hstep
      have hdir' : (encEmit found code e).dir = .enc := by simpa using hdir
      have hst' : (encEmit found code e).st = .running := (encEmit_width_st found code e).1.trans hst
      have hreq' : (encEmit found code e).request = none := by simpa using hreq
      have hprefix := outbits_prefix_of_run hreq' hrest
      rw [encEmit_outbits, ← hin] at hprefix
      obtain ⟨rest, hbits⟩ := drop_of_append_prefix hprefix
      rw [← h.rp] at hbits
      obtain ⟨t, hdstep, htin, ht⟩ := inStep_step h hc hf hcode hbits fun hlast hdesync => by
        obtain rfl := run_of_input_end hdir' hst' hreq' (by simpa using hlast) hrest hef
        exact hsync hdesync
      obtain ⟨j, d', hd', hres⟩ := ih ht hrest (htin.trans hin)
      rw [encEmit_input] at hres
      exact ⟨j + 1, d', (run_succ_of_step hdstep j).trans hd', hres⟩
    · obtain ⟨-, -, hcur, -⟩ := h.encInv.control
      obtain ⟨-, -, -, -, herr⟩ := h.decInv.control
      obtain ⟨h9, -, -⟩ := h.decInv.width hdst
      obtain ⟨herr, -⟩ := herr hdst
      have hend : e.cur = e.input.length := Nat.le_antisymm (hcur (by simp [hst]) hdir) (Nat.not_lt.1 hc)
      obtain rfl := run_of_input_end hdir hst hreq hend hrun hef
      have hbits : d.inbits.drop d.rp = bitsOfNat d.w 256 ++
          List.replicate ((8 - (e.outbits.length + e.w) % 8) % 8) false := by
        rw [hin, h.rp, h.w]
        simp [eofStream]
      refine ⟨1, _, run_succ_of_step (step_of_eof_bits hddir hdst hdreq h9 hbits) 0, rfl, herr, ?_⟩
      exact h.outb.trans (by rw [hend, List.take_length])

/-- Settles O60: the two starts bring the machines in step, and from there the expand run follows the compress run. -/
theorem roundTrip : Obligations.RoundTrip := by
  intro m s e d k x hs hr hk hrun hef hsync hds hdr hin
  obtain ⟨k, rfl⟩ := Nat.exists_eq_add_of_le' hk
  rw [run_succ_of_step (step_compress hs hr)] at hrun
  have hreq : (encLoad m { s with request := none }).request = none := by rw [encLoad_eq]
  obtain ⟨rest, hrest⟩ := outbits_prefix_of_run hreq hrun
  have hinStep : InStep (encLoad m { s with request := none }) (decBegin { d with request := none }) :=
    inStep_of_starts m { s with request := none } (rest := rest) rfl rfl (hin.trans hrest.symm)
  have hdin : (decBegin { d with request := none }).inbits = e.outbits := by
    rw [encLoad_outbits] at hrest
    rw [decBegin_of_tag (s := { d with request := none }) (hin.trans hrest.symm)]
    exact hin
  obtain ⟨j, d', hd', hst, herr, hout⟩ := expand_of_inStep hinStep hrun hef hsync hdin
  refine ⟨j + 1, d', by omega, (run_succ_of_step (step_expand hds hdr) j).trans hd', hst, herr, ?_⟩
  rw [hout, encLoad_eq]

end Sys2Proof.Machine
end
